-- ==== Sys2Proof/Word.lean ====
section
/-! DEFINITION. Widths of the hardware (00_scope.md R5): the word, the register index, the instruction fields.
Bits are numbered as R9 numbers them (bit 0 is the least significant), which is `BitVec`'s own numbering;
arithmetic is modulo `2^32` (R10), which is `BitVec`'s own arithmetic. -/

namespace Sys2Proof

/-- A register, the program counter, a memory word, an ALU operand or result: 32 bits (R5, R10). -/
abbrev Word := BitVec 32

/-- A register index: the 5-bit field of an instruction word (R5, R21). -/
abbrev RegIdx := BitVec 5

/-- The opcode field and the function-code field: 6 bits each (R5). -/
abbrev Op6 := BitVec 6

/-- The immediate field: 16 bits (R5). -/
abbrev Imm16 := BitVec 16

/-- The jump-target field: 26 bits (R5). -/
abbrev Target26 := BitVec 26

end Sys2Proof
end

