-- ==== Sys2Proof/Config.lean ====
section
/-! DEFINITION. What is fixed for the machine: the sizes of R5, the shape of the open encoding parameters of R6,
and the one free value, the initial memory image `IMAGE` of R7 and R37.
The default NUMBERS of R6 stand in Decode.lean and the reset defaults of R35 and R36 in Machine/ResetValues.lean,
where a later repair may mend them. -/

namespace Sys2Proof

/-- `MEM_WORDS`: the number of 32-bit words of the memory array (R5). -/
abbrev Config.memWords : Nat := 16384

/-- `MAX_ADDR`: the maximum valid byte address (R5). -/
abbrev Config.maxAddr : Nat := 0xFFFF

/-- `IMAGE` (R7, R37; 93_implementation_defined.md U6): what word `i` of memory holds when neither the driver (as far
as a `State` says) nor a store has set it.
FREE VALUE (log entry 3): an arbitrary word, the same at every read, never assumed zero. -/
opaque Config.image : Nat → Word

/-- The open numbers of the encoding (R6; D1, D2): eleven opcode numbers and six function codes.
They are parameters of the decoder and of nothing else, so a claim may be made for every admissible choice of them. -/
structure EncodingParams where
  opRtype : Op6
  opJ     : Op6
  opBeq   : Op6
  opAddi  : Op6
  opSlti  : Op6
  opSltiu : Op6
  opAndi  : Op6
  opOri   : Op6
  opLui   : Op6
  opLw    : Op6
  opSw    : Op6
  fnAdd   : Op6
  fnSub   : Op6
  fnAnd   : Op6
  fnOr    : Op6
  fnSlt   : Op6
  fnSltu  : Op6
deriving DecidableEq, Repr

/-- The supported opcodes, in the order of R6's table. -/
def EncodingParams.opcodes (p : EncodingParams) : List Op6 :=
  [p.opRtype, p.opAddi, p.opJ, p.opBeq, p.opSlti, p.opSltiu, p.opAndi, p.opOri, p.opLui, p.opLw, p.opSw]

/-- The supported function codes, in the order of R6's table. -/
def EncodingParams.functs (p : EncodingParams) : List Op6 :=
  [p.fnAdd, p.fnSub, p.fnAnd, p.fnOr, p.fnSlt, p.fnSltu]

end Sys2Proof
end

