-- ==== Sys2Proof/Syntax.lean ====
section
/-! DEFINITION. The sixteen instructions (30_encoding.md R89, R90), one constructor for each row of
spec/opcode_table.json. Operands stand in the order of R96's syntax. Bits that no block reads (R93: bits 10:6 of the
R format, the `rs` field of lui) are no operand. -/

namespace Sys2Proof

/-- The instruction set (R89, R90). Every operand is a field of its format (R82 to R84), at the field's width. -/
inductive Instr where
  /-- `add $rd,$rs,$rt` (R171) -/
  | add (rd rs rt : RegIdx)
  /-- `sub $rd,$rs,$rt` (R172) -/
  | sub (rd rs rt : RegIdx)
  /-- `and $rd,$rs,$rt` (R173) -/
  | and (rd rs rt : RegIdx)
  /-- `or $rd,$rs,$rt` (R174) -/
  | or (rd rs rt : RegIdx)
  /-- `slt $rd,$rs,$rt` (R175) -/
  | slt (rd rs rt : RegIdx)
  /-- `sltu $rd,$rs,$rt` (R176) -/
  | sltu (rd rs rt : RegIdx)
  /-- `addi $rt,$rs,imm` (R181) -/
  | addi (rt rs : RegIdx) (imm : Imm16)
  /-- `slti $rt,$rs,imm` (R182) -/
  | slti (rt rs : RegIdx) (imm : Imm16)
  /-- `sltiu $rt,$rs,imm` (R183) -/
  | sltiu (rt rs : RegIdx) (imm : Imm16)
  /-- `andi $rt,$rs,imm` (R184) -/
  | andi (rt rs : RegIdx) (imm : Imm16)
  /-- `ori $rt,$rs,imm` (R185) -/
  | ori (rt rs : RegIdx) (imm : Imm16)
  /-- `lui $rt,imm` (R186) -/
  | lui (rt : RegIdx) (imm : Imm16)
  /-- `lw $rt,imm($rs)` (R191) -/
  | lw (rt rs : RegIdx) (imm : Imm16)
  /-- `sw $rt,imm($rs)` (R192) -/
  | sw (rt rs : RegIdx) (imm : Imm16)
  /-- `beq $rs,$rt,imm` (R201) -/
  | beq (rs rt : RegIdx) (imm : Imm16)
  /-- `j jt` (R202) -/
  | j (jt : Target26)
deriving DecidableEq, Repr

end Sys2Proof
end

