-- ==== Sys2Proof/WellFormed.lean ====
section
/-! DEFINITION. The well-formedness checks.
An instruction needs none: its operands have the exact width of their fields (R82 to R84), so every term of `Instr`
is well formed and an ill-formed one cannot be written. What can be ill formed is a choice of the open encoding
numbers (R6) and an instruction word (R91, R92). -/

namespace Sys2Proof

/-- R6's constraints on the opcode numbers: pairwise distinct, `OP_RTYPE` = 0x00, `OP_ADDI` = 0x08, 0x3F not among them. -/
def EncodingParams.opcodesOK (p : EncodingParams) : Bool :=
  decide p.opcodes.Nodup && decide (p.opRtype = 0x00#6) && decide (p.opAddi = 0x08#6) && decide (0x3F#6 ∉ p.opcodes)

/-- R6's constraint on the function codes, pairwise distinct, and D2's, 0x00 not among them. -/
def EncodingParams.functsOK (p : EncodingParams) : Bool :=
  decide p.functs.Nodup && decide (0x00#6 ∉ p.functs)

/-- The encoding numbers are admissible (R6; 92_eei_decisions.md D1, D2). -/
def EncodingParams.wf (p : EncodingParams) : Bool :=
  p.opcodesOK && p.functsOK

end Sys2Proof
end

