-- ==== Sys2Proof/Decode.lean ====
section
/-! DEFINITION. The encoding (30_encoding.md): the default numbers of R6, the fields of R81, the total decoder of R98,
and after it the encoder. Decoder and encoder take the open numbers as a parameter (R6); `decode` and `encode` are the
two at the defaults. -/

namespace Sys2Proof

/-- R6's default numbers. Log entry 1: of these only 0x00 and 0x08 are the source's, the others are the spec's
defaults from general knowledge (D1, D2). -/
def Config.encoding : EncodingParams where
  opRtype := 0x00#6
  opJ     := 0x02#6
  opBeq   := 0x04#6
  opAddi  := 0x08#6
  opSlti  := 0x0A#6
  opSltiu := 0x0B#6
  opAndi  := 0x0C#6
  opOri   := 0x0D#6
  opLui   := 0x0F#6
  opLw    := 0x23#6
  opSw    := 0x2B#6
  fnAdd   := 0x20#6
  fnSub   := 0x22#6
  fnAnd   := 0x24#6
  fnOr    := 0x25#6
  fnSlt   := 0x2A#6
  fnSltu  := 0x2B#6

/-- The seven fields of an instruction word (R81). -/
structure Fields where
  op    : Op6
  rs    : RegIdx
  rt    : RegIdx
  rd    : RegIdx
  funct : Op6
  imm   : Imm16
  jt    : Target26
deriving DecidableEq, Repr

/-- `instruction_partitioner` (R81, R114): all seven fields are cut from every word, whatever the opcode. -/
def partition (iw : Word) : Fields where
  op    := iw.extractLsb' 26 6
  rs    := iw.extractLsb' 21 5
  rt    := iw.extractLsb' 16 5
  rd    := iw.extractLsb' 11 5
  funct := iw.extractLsb' 0 6
  imm   := iw.extractLsb' 0 16
  jt    := iw.extractLsb' 0 26

/-- What a word is (R98): exactly one of the sixteen instructions, an illegal opcode (R91), an illegal function code
(R92). -/
inductive DecodeResult where
  | instr (i : Instr)
  | illegalOpcode
  | illegalFunct
deriving DecidableEq, Repr

/-- The second selection of the R format, by function code (R85, R90). -/
def decodeRtype (p : EncodingParams) (f : Fields) : DecodeResult :=
  if f.funct = p.fnAdd then .instr (.add f.rd f.rs f.rt)
  else if f.funct = p.fnSub then .instr (.sub f.rd f.rs f.rt)
  else if f.funct = p.fnAnd then .instr (.and f.rd f.rs f.rt)
  else if f.funct = p.fnOr then .instr (.or f.rd f.rs f.rt)
  else if f.funct = p.fnSlt then .instr (.slt f.rd f.rs f.rt)
  else if f.funct = p.fnSltu then .instr (.sltu f.rd f.rs f.rt)
  else .illegalFunct

/-- The selection by opcode (R85, R89) on the fields of a word. -/
def decodeFields (p : EncodingParams) (f : Fields) : DecodeResult :=
  if f.op = p.opRtype then decodeRtype p f
  else if f.op = p.opJ then .instr (.j f.jt)
  else if f.op = p.opBeq then .instr (.beq f.rs f.rt f.imm)
  else if f.op = p.opAddi then .instr (.addi f.rt f.rs f.imm)
  else if f.op = p.opSlti then .instr (.slti f.rt f.rs f.imm)
  else if f.op = p.opSltiu then .instr (.sltiu f.rt f.rs f.imm)
  else if f.op = p.opAndi then .instr (.andi f.rt f.rs f.imm)
  else if f.op = p.opOri then .instr (.ori f.rt f.rs f.imm)
  else if f.op = p.opLui then .instr (.lui f.rt f.imm)
  else if f.op = p.opLw then .instr (.lw f.rt f.rs f.imm)
  else if f.op = p.opSw then .instr (.sw f.rt f.rs f.imm)
  else .illegalOpcode

/-- The decoding procedure of R98, total on 32-bit words, for any encoding numbers. -/
def decodeWith (p : EncodingParams) (iw : Word) : DecodeResult :=
  decodeFields p (partition iw)

/-- The decoder of the machine: R98 with the default numbers of R6. -/
def decode (iw : Word) : DecodeResult :=
  decodeWith Config.encoding iw

/-- An R-format word (R82); the ignored bits 10:6 are 0, as in R96's listings. -/
def rWord (op : Op6) (rs rt rd : RegIdx) (fn : Op6) : Word :=
  op ++ rs ++ rt ++ rd ++ 0#5 ++ fn

/-- An I-format word (R83). -/
def iWord (op : Op6) (rs rt : RegIdx) (imm : Imm16) : Word :=
  op ++ rs ++ rt ++ imm

/-- A J-format word (R84). -/
def jWord (op : Op6) (jt : Target26) : Word :=
  op ++ jt

/-- The word of an instruction (R82 to R84, R89, R90), for any encoding numbers; the `rs` field of lui is 0 (R96). -/
def encodeWith (p : EncodingParams) : Instr → Word
  | .add rd rs rt    => rWord p.opRtype rs rt rd p.fnAdd
  | .sub rd rs rt    => rWord p.opRtype rs rt rd p.fnSub
  | .and rd rs rt    => rWord p.opRtype rs rt rd p.fnAnd
  | .or rd rs rt     => rWord p.opRtype rs rt rd p.fnOr
  | .slt rd rs rt    => rWord p.opRtype rs rt rd p.fnSlt
  | .sltu rd rs rt   => rWord p.opRtype rs rt rd p.fnSltu
  | .addi rt rs imm  => iWord p.opAddi rs rt imm
  | .slti rt rs imm  => iWord p.opSlti rs rt imm
  | .sltiu rt rs imm => iWord p.opSltiu rs rt imm
  | .andi rt rs imm  => iWord p.opAndi rs rt imm
  | .ori rt rs imm   => iWord p.opOri rs rt imm
  | .lui rt imm      => iWord p.opLui 0#5 rt imm
  | .lw rt rs imm    => iWord p.opLw rs rt imm
  | .sw rt rs imm    => iWord p.opSw rs rt imm
  | .beq rs rt imm   => iWord p.opBeq rs rt imm
  | .j jt            => jWord p.opJ jt

/-- The encoder of the machine: the default numbers of R6. -/
def encode (i : Instr) : Word :=
  encodeWith Config.encoding i

/-- The bits of an instruction's word that no block reads (R93): bits 10:6 of the R format, bits 25:21 of lui. -/
def Instr.ignoredBits : Instr → Word
  | .add _ _ _ | .sub _ _ _ | .and _ _ _ | .or _ _ _ | .slt _ _ _ | .sltu _ _ _ => 0x000007C0#32
  | .lui _ _ => 0x03E00000#32
  | .addi _ _ _ | .slti _ _ _ | .sltiu _ _ _ | .andi _ _ _ | .ori _ _ _ | .lw _ _ _ | .sw _ _ _ | .beq _ _ _ | .j _ =>
    0x00000000#32

/-- The "match" column of spec/opcode_table.json. -/
def Instr.tableMatch : Instr → Word
  | .add _ _ _   => 0x00000020#32
  | .sub _ _ _   => 0x00000022#32
  | .and _ _ _   => 0x00000024#32
  | .or _ _ _    => 0x00000025#32
  | .slt _ _ _   => 0x0000002A#32
  | .sltu _ _ _  => 0x0000002B#32
  | .addi _ _ _  => 0x20000000#32
  | .slti _ _ _  => 0x28000000#32
  | .sltiu _ _ _ => 0x2C000000#32
  | .andi _ _ _  => 0x30000000#32
  | .ori _ _ _   => 0x34000000#32
  | .lui _ _     => 0x3C000000#32
  | .lw _ _ _    => 0x8C000000#32
  | .sw _ _ _    => 0xAC000000#32
  | .beq _ _ _   => 0x10000000#32
  | .j _         => 0x08000000#32

/-- The "mask" column of spec/opcode_table.json. -/
def Instr.tableMask : Instr → Word
  | .add _ _ _ | .sub _ _ _ | .and _ _ _ | .or _ _ _ | .slt _ _ _ | .sltu _ _ _ => 0xFC00003F#32
  | .addi _ _ _ | .slti _ _ _ | .sltiu _ _ _ | .andi _ _ _ | .ori _ _ _ | .lui _ _ | .lw _ _ _ | .sw _ _ _
  | .beq _ _ _ | .j _ => 0xFC000000#32

/-- The 32-bit word of an opcode-table row: the low `nbits` bits of `w`, every bit above them 0. The hardware has no byte
order (R55), so a row's word is the word that memory holds. -/
def tableWord (nbits w : Nat) : Word :=
  BitVec.ofNat 32 (w % 2 ^ nbits)

/-- The instruction the decoder reads from an opcode-table word. -/
def decodeTableWord (nbits w : Nat) : Option Instr :=
  match decode (tableWord nbits w) with
  | .instr i       => some i
  | .illegalOpcode => none
  | .illegalFunct  => none

end Sys2Proof
end

