-- ==== Sys2Proof/Machine/ResetValues.lean ====
section
/-! DEFINITION. The reset defaults `RESET_PC` and `RESET_REGS` of R35 and R36 (the spec's decision D9; log entry 2). -/

namespace Sys2Proof.Machine

/-- `RESET_PC` at its default (R36). -/
def resetPc : Word := 0x00000000#32

/-- `RESET_REGS` at its default, all zero (R35); slot 0 is register 0, which reads 0 whatever stands there (R34). -/
def resetRegs : Vector Word 32 := Vector.replicate 32 0x00000000#32

end Sys2Proof.Machine
end

