-- ==== Sys2Proof/Machine/State.lean ====
section
/-! DEFINITION. The persistent state, exactly the triple `(x, mem, pc)` of 10_state.md R20, as plain data, and the
reasons a cycle can stop. There is no flag, control, status, mode, exception or halt register (R28 to R33). -/

namespace Sys2Proof.Machine

/-- The register file: 32 words of 32 bits, one bank (R21). It is read and written only through `RegFile.read` and
`RegFile.write` (Ops.lean), where register 0 is hardwired (R22). -/
abbrev RegFile := Vector Word 32

/-- The memory array (R27, R50): pairs (word index, word), indices strictly rising and below 16384 (`Memory.wf`).
An array of WORDS, never split into bytes, as R55 requires (log entry 4). A word that is not listed has not been set and
reads as the free value `Config.image` (R37; log entry 3). -/
abbrev Memory := List (Nat × Word)

/-- The machine state (R20). -/
structure State where
  /-- `x`, the register file (R21). -/
  regs : RegFile
  /-- `mem`, the memory array (R27). -/
  mem  : Memory
  /-- `pc`, the program counter, a full 32-bit register (R24). -/
  pc   : Word
deriving DecidableEq, Repr

/-- The causes of Halt (60_exceptions.md R211). Every Halt is a fault, as R227 recommends (D13; log entry 5).
Safe: no run is called good because it halted. -/
inductive Fault where
  /-- `FETCH_ADDR`: raised by `fetch_unit` when `AddrOK(pc)` fails (R113, R211). Safe: the spec names this Halt. -/
  | fetchAddr
  /-- `OPCODE`: raised by `decode_rom` for an opcode outside the eleven (R91, R211). Safe: the spec names this Halt. -/
  | opcode
  /-- `FUNCT`: raised by `alu_with_zero_flag` for a function code outside the six (R92, R211). Safe: the spec names this
  Halt. -/
  | funct
  /-- `DATA_ADDR`: raised by the memory unit for lw and sw when `AddrOK(EA)` fails (R126, R211). Safe: the spec names this
  Halt. -/
  | dataAddr
deriving DecidableEq, Repr

/-- Reasons to refuse. No meaning of this model refuses. -/
inductive Refusal where
  /-- An instruction without a meaning, by mnemonic; raised by an arm of `exec` only, and no arm does. Safe. -/
  | notModelled (mnemonic : String)
deriving DecidableEq, Repr

/-- What a cycle answers. -/
abbrev Result := Host.Outcome State Fault Refusal

/-- The state after reset (R34 to R37, R240): the reset defaults, and a memory of which no word is known. -/
def State.reset : State where
  regs := resetRegs
  mem  := []
  pc   := resetPc

end Sys2Proof.Machine
end

