-- ==== Sys2Proof/Machine/Flags.lean ====
section
/-! DEFINITION. The one flag of the hardware, the ALU's zero flag: transient, never stored (10_state.md R28). -/

namespace Sys2Proof.Machine

/-- The zero flag, true iff the 32-bit result is 0 (R28, R123). -/
def zeroFlag (result : Word) : Bool :=
  result == 0#32

end Sys2Proof.Machine
end

