-- ==== Sys2Proof/Machine/Ops.lean ====
section
/-! DEFINITION. The named operations over memory, registers, program counter and Halt. -/

namespace Sys2Proof.Machine

/-! ### Addresses (20_memory.md) -/

/-- The word index of a byte address, `a >> 2` (R51). -/
def wordIndex (a : Word) : Nat :=
  (a >>> 2).toNat

/-- `AddrOK` (R52), all three conditions as the source lists them: a multiple of 4, at most 0xFFFF, and a word index
inside the array. Fetch and data access use this one predicate. -/
def addrOK (a : Word) : Bool :=
  a.extractLsb' 0 2 == 0#2 && decide (a.toNat ≤ Config.maxAddr) && decide (wordIndex a < Config.memWords)

/-! ### Memory (20_memory.md) -/

/-- The listed word at an index, `none` for a word nothing has set. -/
def Memory.word? : Memory → Nat → Option Word
  | [], _ => none
  | (k, v) :: m, i => if k = i then some v else Memory.word? m i

/-- The word at an index (R53): the listed one, else the free value of an unset word (R37, U6). -/
def Memory.word (m : Memory) (i : Nat) : Word :=
  (Memory.word? m i).getD (Config.image i)

/-- Set the word at an index and no other (R54), keeping indices rising. -/
def Memory.setWord : Memory → Nat → Word → Memory
  | [], i, v => [(i, v)]
  | (k, u) :: m, i, v =>
    if i < k then (i, v) :: (k, u) :: m
    else if i = k then (i, v) :: m
    else (k, u) :: Memory.setWord m i v

/-- Indices strictly rising, from `lo` on, and below 16384 (R27). -/
def Memory.wfFrom (lo : Nat) : Memory → Bool
  | [] => true
  | (k, _) :: m => decide (lo ≤ k) && decide (k < Config.memWords) && Memory.wfFrom (k + 1) m

/-- The canonical form of memory: an unlisted word is unset, so equal memories are equal lists. -/
def Memory.wf (m : Memory) : Bool :=
  Memory.wfFrom 0 m

/-- `MemRead(a, 4)` (R53); used only when `addrOK a`. -/
def memRead (m : Memory) (a : Word) : Word :=
  Memory.word m (wordIndex a)

/-- `MemWrite(a, 4, v)` (R54); used only when `addrOK a`. -/
def memWrite (m : Memory) (a : Word) (v : Word) : Memory :=
  Memory.setWord m (wordIndex a) v

/-! ### Registers (10_state.md) -/

theorem RegIdx.isLt32 (i : RegIdx) : i.toNat < 32 := i.isLt

/-- Read of register `i` (R11, R22): register 0 reads 0. -/
def RegFile.read (x : RegFile) (i : RegIdx) : Word :=
  if i = 0#5 then 0#32 else x[i.toNat]'(RegIdx.isLt32 i)

/-- Write of register `i` (R11, R22, R128): a write to register 0 is discarded. -/
def RegFile.write (x : RegFile) (i : RegIdx) (v : Word) : RegFile :=
  if i = 0#5 then x else x.set i.toNat v (RegIdx.isLt32 i)

/-- `x[i]` (R11). -/
def State.readReg (s : State) (i : RegIdx) : Word :=
  RegFile.read s.regs i

/-- `x[i] <- v` (R11). -/
def State.writeReg (s : State) (i : RegIdx) (v : Word) : State :=
  { s with regs := RegFile.write s.regs i v }

/-- The memory word at byte address `a` (R53). -/
def State.load (s : State) (a : Word) : Word :=
  memRead s.mem a

/-- Store of a word at byte address `a` (R54). -/
def State.store (s : State) (a : Word) (v : Word) : State :=
  { s with mem := memWrite s.mem a v }

/-! ### Program counter (10_state.md) -/

/-- `pc <- t` (R11). -/
def State.setPc (s : State) (t : Word) : State :=
  { s with pc := t }

/-- `pc + 4`, modulo `2^32` (R25). -/
def pcPlus4 (pc : Word) : Word :=
  pc + 4#32

/-- `pc <- pc + 4` (R25). -/
def State.advance (s : State) : State :=
  s.setPc (pcPlus4 s.pc)

/-! ### Halt (60_exceptions.md) -/

/-- `raise Halt(cause)`, the one way a cycle stops (R210, R213). It saves nothing, changes no state and enters no handler
(R214), so the answer carries the cause alone and the state stays what it was; there is no return from it (R215). -/
def raiseHalt (cause : Fault) : Result :=
  .fault cause

/-- `fetch_unit` (R113): the instruction word at `pc`, or Halt(FETCH_ADDR). -/
def fetchUnit (pc : Word) (m : Memory) : Except Fault Word :=
  if addrOK pc then .ok (memRead m pc) else .error .fetchAddr

end Sys2Proof.Machine
end

