-- ==== Sys2Proof/Machine/Signals.lean ====
section
/-! DEFINITION. The signals that pass between the blocks (40_datapath_blocks.md R111, R112) as the enumerations the spec
makes normative, and the port numbers it chose for them (D4; no program can observe these). -/

namespace Sys2Proof.Machine

/-- The ALU selector (R112): eight operations, and every port number from 8 to 15. -/
inductive AluSel where
  | add | sub | slt | sltu | and | or | shl16 | nota | unrecognised
deriving DecidableEq, Repr

/-- The ALU operation class (R111): a selector used directly, or "use funct". -/
inductive AluOp where
  | direct (sel : AluSel)
  | useFunct
deriving DecidableEq, Repr

/-- Register-destination select (R111). -/
inductive RegDst where
  | rt | rd
deriving DecidableEq, Repr

/-- Memory-to-register select (R111). -/
inductive MemToReg where
  | alu | mem
deriving DecidableEq, Repr

/-- ALU second-operand source select (R111). -/
inductive AluSrc where
  | reg | imm
deriving DecidableEq, Repr

/-- The control signal vector: nine named signals (R111). -/
structure ControlVector where
  regDst   : RegDst
  branch   : Bool
  memRead  : Bool
  memToReg : MemToReg
  aluOp    : AluOp
  memWrite : Bool
  aluSrc   : AluSrc
  regWrite : Bool
  jump     : Bool
deriving DecidableEq, Repr

/-- The selector a 4-bit number on the ALU's port stands for (R112). -/
def AluSel.ofPort (n : BitVec 4) : AluSel :=
  if n = 0#4 then .add
  else if n = 1#4 then .sub
  else if n = 2#4 then .slt
  else if n = 3#4 then .sltu
  else if n = 4#4 then .and
  else if n = 5#4 then .or
  else if n = 6#4 then .shl16
  else if n = 7#4 then .nota
  else .unrecognised

/-- The ALU class a 4-bit number on the `ALUOp` port stands for (R112): 8 is "use funct". -/
def AluOp.ofPort (n : BitVec 4) : AluOp :=
  if n = 8#4 then .useFunct else .direct (AluSel.ofPort n)

/-- The port number of `RegDst` (R111). -/
def RegDst.port : RegDst → BitVec 1
  | .rt => 0#1
  | .rd => 1#1

/-- The port number of `MemToReg` (R111). -/
def MemToReg.port : MemToReg → BitVec 1
  | .alu => 0#1
  | .mem => 1#1

/-- The port number of `ALUSrc` (R111). -/
def AluSrc.port : AluSrc → BitVec 1
  | .reg => 0#1
  | .imm => 1#1

end Sys2Proof.Machine
end

