-- ==== Sys2Proof/Machine/Operands.lean ====
section
/-! DEFINITION. Operand assembly, every form the spec gives: the sign-extended immediate (R86, R119), the ALU operands
(R120), base plus displacement (R190), the branch target (R87), the jump target (R88); and the ALU itself (R122). -/

namespace Sys2Proof.Machine

/-- `sign_extender`, `sext_32` (R86, R119), as the source writes it: OR with 0xFFFF0000 when bit 15 is set. -/
def signExtender (imm : Imm16) : Word :=
  if imm.getLsbD 15 then imm.setWidth 32 ||| 0xFFFF0000#32 else imm.setWidth 32

/-- Operand B of the ALU (R120): the extended immediate when ALUSrc is IMM, else the target-register value. -/
def operandB (src : AluSrc) (data2 ext : Word) : Word :=
  match src with
  | .imm => ext
  | .reg => data2

/-- "result 1/0" of a comparison (R122). -/
def oneIf (b : Bool) : Word :=
  if b then 1#32 else 0#32

/-- The 32-bit result of the ALU (R122); an unrecognised selector gives zero (R124). -/
def aluResult (sel : AluSel) (a b : Word) : Word :=
  match sel with
  | .add          => a + b
  | .sub          => a - b
  | .slt          => oneIf (decide (a.toInt < b.toInt))
  | .sltu         => oneIf (decide (a.toNat < b.toNat))
  | .and          => a &&& b
  | .or           => a ||| b
  | .shl16        => b <<< 16
  | .nota         => ~~~a
  | .unrecognised => 0#32

/-- The ALU proper (R11, R122, R123): the pair of result and zero flag, for every selector. -/
def alu (sel : AluSel) (a b : Word) : Word × Bool :=
  (aluResult sel a b, zeroFlag (aluResult sel a b))

/-- The effective address of lw and sw, base plus sign-extended byte displacement, modulo `2^32` (R190). -/
def effectiveAddress (base : Word) (imm : Imm16) : Word :=
  aluResult .add base (signExtender imm)

/-- The branch target `pc + 4 + (ext << 2)`, modulo `2^32` (R87, R129). -/
def branchTarget (pc : Word) (ext : Word) : Word :=
  pcPlus4 pc + (ext <<< 2)

/-- The jump target `(pc + 4)[31:28] ∥ jt ∥ 0b00` (R88, R129). -/
def jumpTarget (pc : Word) (jt : Target26) : Word :=
  (pcPlus4 pc).extractLsb' 28 4 ++ jt ++ 0#2

end Sys2Proof.Machine
end

