-- ==== Sys2Proof/Machine/Control.lean ====
section
/-! DEFINITION. The control transfers (44_control_transfer.md). Neither checks its target (R200). -/

namespace Sys2Proof.Machine

/-- beq (R201): taken when the zero flag of `x[rs] - x[rt]` is set. -/
def execBeq (rs rt : RegIdx) (imm : Imm16) (s : State) : Result :=
  if (alu .sub (s.readReg rs) (s.readReg rt)).2 then .next (s.setPc (branchTarget s.pc (signExtender imm)))
  else .next s.advance

/-- j (R202). -/
def execJ (jt : Target26) (s : State) : Result :=
  .next (s.setPc (jumpTarget s.pc jt))

end Sys2Proof.Machine
end

