-- ==== Sys2Proof/Machine/IType.lean ====
section
/-! DEFINITION. The six I-type arithmetic and logic instructions (42_itype_alu.md). -/

namespace Sys2Proof.Machine

/-- The common behaviour of every I-type ALU instruction (R180): the immediate is sign-extended for all of them, the
destination is `rt`, and the pc advances. -/
def aluRegImm (sel : AluSel) (rt rs : RegIdx) (imm : Imm16) (s : State) : Result :=
  .next (s.writeReg rt (alu sel (s.readReg rs) (signExtender imm)).1).advance

/-- addi, without a trap on overflow (R181). -/
def execAddi (rt rs : RegIdx) (imm : Imm16) (s : State) : Result := aluRegImm .add rt rs imm s

/-- slti, signed (R182). -/
def execSlti (rt rs : RegIdx) (imm : Imm16) (s : State) : Result := aluRegImm .slt rt rs imm s

/-- sltiu, sign-extended first and then compared unsigned (R183). -/
def execSltiu (rt rs : RegIdx) (imm : Imm16) (s : State) : Result := aluRegImm .sltu rt rs imm s

/-- andi, with the sign-extended immediate (R184). -/
def execAndi (rt rs : RegIdx) (imm : Imm16) (s : State) : Result := aluRegImm .and rt rs imm s

/-- ori, with the sign-extended immediate (R185). -/
def execOri (rt rs : RegIdx) (imm : Imm16) (s : State) : Result := aluRegImm .or rt rs imm s

/-- lui (R186): operand A is not used, so the ignored `rs` field (R93) is no operand and register 0 stands for it. -/
def execLui (rt : RegIdx) (imm : Imm16) (s : State) : Result := aluRegImm .shl16 rt 0#5 imm s

end Sys2Proof.Machine
end

