-- ==== Sys2Proof/Machine/LoadStore.lean ====
section
/-! DEFINITION. Load and store (43_load_store.md), the only instructions whose ALU result is checked as an address. -/

namespace Sys2Proof.Machine

/-- lw (R190, R191): the address is checked and the word read also when `rt` is 0, where the value is then discarded. -/
def execLw (rt rs : RegIdx) (imm : Imm16) (s : State) : Result :=
  if addrOK (effectiveAddress (s.readReg rs) imm) then
    .next (s.writeReg rt (s.load (effectiveAddress (s.readReg rs) imm))).advance
  else raiseHalt .dataAddr

/-- sw (R190, R192). -/
def execSw (rt rs : RegIdx) (imm : Imm16) (s : State) : Result :=
  if addrOK (effectiveAddress (s.readReg rs) imm) then
    .next (s.store (effectiveAddress (s.readReg rs) imm) (s.readReg rt)).advance
  else raiseHalt .dataAddr

end Sys2Proof.Machine
end

