-- ==== Sys2Proof/Machine/RType.lean ====
section
/-! DEFINITION. The six R-type instructions (41_rtype_alu.md). -/

namespace Sys2Proof.Machine

/-- The common behaviour of every R-type instruction (R170): both sources are read, then the destination is written,
and the pc advances. The zero flag is used by nothing. -/
def aluRegReg (sel : AluSel) (rd rs rt : RegIdx) (s : State) : Result :=
  .next (s.writeReg rd (alu sel (s.readReg rs) (s.readReg rt)).1).advance

/-- add (R171). -/
def execAdd (rd rs rt : RegIdx) (s : State) : Result := aluRegReg .add rd rs rt s

/-- sub (R172): the minuend is `x[rs]`. -/
def execSub (rd rs rt : RegIdx) (s : State) : Result := aluRegReg .sub rd rs rt s

/-- and (R173). -/
def execAnd (rd rs rt : RegIdx) (s : State) : Result := aluRegReg .and rd rs rt s

/-- or (R174). -/
def execOr (rd rs rt : RegIdx) (s : State) : Result := aluRegReg .or rd rs rt s

/-- slt, signed (R175). -/
def execSlt (rd rs rt : RegIdx) (s : State) : Result := aluRegReg .slt rd rs rt s

/-- sltu, unsigned (R176). -/
def execSltu (rd rs rt : RegIdx) (s : State) : Result := aluRegReg .sltu rd rs rt s

end Sys2Proof.Machine
end

