-- ==== Sys2Proof/Machine/Step.lean ====
section
/-! DEFINITION. One step is one cycle of the core (R110, R246): fetch at the pc, decode, execute. -/

namespace Sys2Proof.Machine

/-- One cycle for any encoding numbers (R6): a failed fetch, an illegal opcode and an illegal function code raise Halt
(R113, R91, R92); any other word is executed. -/
def stepWith (p : EncodingParams) (s : State) : Host.Outcome State Fault Refusal :=
  match fetchUnit s.pc s.mem with
  | .error cause => raiseHalt cause
  | .ok iw =>
    match decodeWith p iw with
    | .instr i       => exec i s
    | .illegalOpcode => raiseHalt .opcode
    | .illegalFunct  => raiseHalt .funct

/-- One cycle of the machine, at the default numbers. -/
def step (s : State) : Host.Outcome State Fault Refusal :=
  stepWith Config.encoding s

/-- The state with an opcode-table word stored where the next cycle fetches: memory word `pc >> 2`. A pc that fails
`AddrOK` names no word, and nothing is stored. -/
def State.withFetchWord (s : State) (nbits w : Nat) : State :=
  if addrOK s.pc then { s with mem := memWrite s.mem s.pc (tableWord nbits w) } else s

end Sys2Proof.Machine
end

