-- ==== Sys2Proof/Machine/Datapath.lean ====
section
/-! DEFINITION. The nine datapath blocks, each total on its own ports (40_datapath_blocks.md R113 to R129, R133), and the
cycle they form (R110). `fetch_unit` is `fetchUnit` (Ops.lean), `instruction_partitioner` is `partition` (Decode.lean),
`sign_extender` is `signExtender` and the ALU proper is `alu` (Operands.lean). This is a second description of the
machine beside `exec`; R12 says that R110 governs where the two differ. -/

namespace Sys2Proof.Machine

/-- `decode_rom` (R115 to R117): the eleven control vectors; any other opcode raises Halt(OPCODE). -/
def decodeRom (p : EncodingParams) (op : Op6) : Except Fault ControlVector :=
  if op = p.opRtype then .ok ⟨.rd, false, false, .alu, .useFunct, false, .reg, true, false⟩
  else if op = p.opAddi then .ok ⟨.rt, false, false, .alu, .direct .add, false, .imm, true, false⟩
  else if op = p.opSlti then .ok ⟨.rt, false, false, .alu, .direct .slt, false, .imm, true, false⟩
  else if op = p.opSltiu then .ok ⟨.rt, false, false, .alu, .direct .sltu, false, .imm, true, false⟩
  else if op = p.opAndi then .ok ⟨.rt, false, false, .alu, .direct .and, false, .imm, true, false⟩
  else if op = p.opOri then .ok ⟨.rt, false, false, .alu, .direct .or, false, .imm, true, false⟩
  else if op = p.opLui then .ok ⟨.rt, false, false, .alu, .direct .shl16, false, .imm, true, false⟩
  else if op = p.opLw then .ok ⟨.rt, false, true, .mem, .direct .add, false, .imm, true, false⟩
  else if op = p.opSw then .ok ⟨.rt, false, false, .alu, .direct .add, true, .imm, false, false⟩
  else if op = p.opBeq then .ok ⟨.rt, true, false, .alu, .direct .sub, false, .reg, false, false⟩
  else if op = p.opJ then .ok ⟨.rt, false, false, .alu, .direct .add, false, .reg, false, true⟩
  else .error .opcode

/-- `register_file_read_port` (R118): both values, unconditionally. -/
def regReadPort (x : RegFile) (rs rt : RegIdx) : Word × Word :=
  (RegFile.read x rs, RegFile.read x rt)

/-- The function-code table (R121). -/
def functSelector (p : EncodingParams) (funct : Op6) : Except Fault AluSel :=
  if funct = p.fnAdd then .ok .add
  else if funct = p.fnSub then .ok .sub
  else if funct = p.fnAnd then .ok .and
  else if funct = p.fnOr then .ok .or
  else if funct = p.fnSlt then .ok .slt
  else if funct = p.fnSltu then .ok .sltu
  else .error .funct

/-- Selector resolution (R121): the function code is looked at only under "use funct". -/
def resolveSelector (p : EncodingParams) (aluOp : AluOp) (funct : Op6) : Except Fault AluSel :=
  match aluOp with
  | .useFunct   => functSelector p funct
  | .direct sel => .ok sel

/-- `alu_with_zero_flag` (R120 to R124): operand and selector resolution, then the ALU. -/
def aluWithZeroFlag (p : EncodingParams) (data1 data2 ext : Word) (funct : Op6) (aluOp : AluOp) (src : AluSrc) :
    Except Fault (Word × Bool) :=
  match resolveSelector p aluOp funct with
  | .error cause => .error cause
  | .ok sel      => .ok (alu sel data1 (operandB src data2 ext))

/-- `memory_read_write_unit_with_bounds_check` (R125 to R127): no flag, no check; otherwise one check, then the write,
then the read, which sees the word just written. Without a read `memdata` is 0 (D16). -/
def memUnit (m : Memory) (write read : Bool) (addr wdata : Word) : Except Fault (Memory × Word) :=
  if write || read then
    if addrOK addr then
      let m' := if write then memWrite m addr wdata else m
      .ok (m', if read then memRead m' addr else 0#32)
    else .error .dataAddr
  else .ok (m, 0#32)

/-- `register_file_write_port` (R128). -/
def regWritePort (x : RegFile) (rt rd : RegIdx) (memdata result : Word) (regWrite : Bool) (regDst : RegDst)
    (memToReg : MemToReg) : RegFile :=
  if regWrite then
    RegFile.write x (match regDst with | .rd => rd | .rt => rt) (match memToReg with | .mem => memdata | .alu => result)
  else x

/-- `pc_sequencer` (R129): jump before branch before `pc + 4`. -/
def pcSequencer (pc : Word) (jt : Target26) (ext : Word) (jump branch zero : Bool) : Word :=
  if jump then jumpTarget pc jt
  else if branch && zero then branchTarget pc ext
  else pcPlus4 pc

/-- Stages 6 to 9 of R110, on the fields of the fetched word and its control vector. -/
def executeStages (p : EncodingParams) (s : State) (f : Fields) (c : ControlVector) : Except Fault State :=
  let data := regReadPort s.regs f.rs f.rt
  let ext := signExtender f.imm
  match aluWithZeroFlag p data.1 data.2 ext f.funct c.aluOp c.aluSrc with
  | .error cause => .error cause
  | .ok (result, zero) =>
    match memUnit s.mem c.memWrite c.memRead result data.2 with
    | .error cause => .error cause
    | .ok (mem', memdata) =>
      .ok { regs := regWritePort s.regs f.rt f.rd memdata result c.regWrite c.regDst c.memToReg
            mem  := mem'
            pc   := pcSequencer s.pc f.jt ext c.jump c.branch zero }

/-- The nine stages in their fixed order (R110); the first Halt met ends the cycle (R212). -/
def stages (p : EncodingParams) (s : State) : Except Fault State :=
  match fetchUnit s.pc s.mem with
  | .error cause => .error cause
  | .ok iw =>
    match decodeRom p (partition iw).op with
    | .error cause => .error cause
    | .ok c        => executeStages p s (partition iw) c

/-- What a cycle returns (R33, R110): the state after it, and the cause of its Halt if it raised one (R211). -/
structure CycleOut where
  state : State
  halt  : Option Fault
deriving DecidableEq, Repr

/-- What a driver that stops on Halt makes of a cycle: the next state, or the fault that names the Halt (R227). -/
def CycleOut.result (c : CycleOut) : Result :=
  match c.halt with
  | none       => .next c.state
  | some cause => raiseHalt cause

/-- One cycle (R110): a new state is committed, or Halt is raised and the state is the one it began with (R213). -/
def cycleWith (p : EncodingParams) (s : State) : CycleOut :=
  match stages p s with
  | .ok s'       => ⟨s', none⟩
  | .error cause => ⟨s, some cause⟩

/-- One cycle at the default encoding numbers. -/
def cycle (s : State) : CycleOut :=
  cycleWith Config.encoding s

end Sys2Proof.Machine
end

