-- ==== Sys2Proof/Machine/Clock.lean ====
section
/-! DEFINITION. The core on its clock (R130, R131, R240): the pins `rst` and `halt`, the effect of a rising edge, and the state a
driver boots the core into (R241). -/

namespace Sys2Proof.Machine

/-- A rising edge with `rst` = 1 (R240): the pc and the registers take their reset values, memory is not touched. -/
def resetEdge (s : State) : State :=
  { s with regs := resetRegs, pc := resetPc }

/-- The `halt` output (R131): true when the cycle in progress raises Halt. One bit, no cause (R211). -/
def haltPin (s : State) : Bool :=
  (cycle s).halt.isSome

/-- A rising edge of `clk` (R130, R240): reset, or one cycle, which commits nothing when it raises Halt. -/
def clockEdge (rst : Bool) (s : State) : State :=
  if rst then resetEdge s else (cycle s).state

/-- `n` cycles issued one after another, by a driver that does not stop on Halt (R216). -/
def clockEdges : Nat → State → State
  | 0, s     => s
  | n + 1, s => clockEdges n (clockEdge false s)

/-- A memory image given as words from word 0 on (R37), each listed under its index. -/
def imageFrom (i : Nat) : List Word → Memory
  | []      => []
  | v :: vs => (i, v) :: imageFrom (i + 1) vs

/-- The state the first cycle starts from (R240, R241): the driver has filled memory with `image`, and reset has loaded the
pc and the registers. -/
def boot (image : Memory) : State where
  regs := resetRegs
  mem  := image
  pc   := resetPc

end Sys2Proof.Machine
end

