-- ==== Sys2Proof/Safety.lean ====
section
/-! DEFINITION. What counts as a safe run, in the terms claims use: every Halt is a fault (R227; log entry 5), so a run is
safe as long as its cycles complete, and it ends at the first cycle that raises Halt (R219). And the invariant of the
reachable states. -/

namespace Sys2Proof.Machine

/-- `n` cycles from `s` all complete and lead to `t`. -/
def Completes (n : Nat) (s t : State) : Prop :=
  Sys2Proof.core.run n s = .next t

/-- The run from `s` ends (R219): `n` instructions are executed, and the cycle that starts in `t` raises Halt. -/
def EndsAt (n : Nat) (s t : State) (cause : Fault) : Prop :=
  Completes n s t ∧ step t = .fault cause

/-- A run from `s` is safe for `n` cycles: none of them raises Halt. -/
def SafeFor (n : Nat) (s : State) : Prop :=
  ∃ t, Completes n s t

/-- The word a cycle that starts in `s` fetches, when it can fetch at all (R113). -/
def State.fetched (s : State) : Word :=
  memRead s.mem s.pc

/-- Every memory word reads as before. -/
def SameMemory (s t : State) : Prop :=
  ∀ k, Memory.word t.mem k = Memory.word s.mem k

/-- Every register reads as before. -/
def SameRegs (s t : State) : Prop :=
  ∀ r, t.readReg r = s.readReg r

/-- What a register-writing instruction does (R170, R180, R191): `r` takes `v`, unless it is register 0, where the write is
discarded; every other register and every memory word reads as before; the pc advances by 4. -/
def WritesReg (s t : State) (r : RegIdx) (v : Word) : Prop :=
  t.readReg r = (if r = 0#5 then 0#32 else v) ∧ (∀ q, q ≠ r → t.readReg q = s.readReg q) ∧ SameMemory s t ∧
    t.pc = s.pc + 4#32

/-- The register an instruction writes, none for sw, beq and j (R23). -/
def dest : Instr → Option RegIdx
  | .add rd _ _ | .sub rd _ _ | .and rd _ _ | .or rd _ _ | .slt rd _ _ | .sltu rd _ _ => some rd
  | .addi rt _ _ | .slti rt _ _ | .sltiu rt _ _ | .andi rt _ _ | .ori rt _ _ | .lui rt _ | .lw rt _ _ => some rt
  | .sw _ _ _ | .beq _ _ _ | .j _ => none

/-- Slot 0 of the register file holds 0 ("never mutated by any writeback", R22). -/
def State.zeroSlot (s : State) : Prop :=
  s.regs[0] = 0#32

/-- The pc is a multiple of 4 (R26). -/
def State.pcAligned (s : State) : Prop :=
  4 ∣ s.pc.toNat

/-- What every step keeps: memory in its canonical form (R27), register 0 unwritten (R22), the pc aligned (R26). -/
structure StateInv (s : State) : Prop where
  memory  : Memory.wf s.mem = true
  zero    : s.zeroSlot
  aligned : s.pcAligned

end Sys2Proof.Machine
end

