-- ==== Sys2Proof/Certificates/Slice0/Obligations.lean ====
section
/-! DEFINITION. The statements for the provers. Each docstring names the rule of spec/ it formalises. "For any encoding
numbers" means for every admissible choice of the open parameters of R6 (`EncodingParams.wf`). -/

section
open Sys2Proof Sys2Proof.Machine

/-! ### Encoding (30_encoding.md) -/

/-- R82 to R85, R89, R90: for any encoding numbers, decoding the word of an instruction gives the instruction back. -/
def Obligations.DecodeOfEncode : Prop :=
  ∀ p : EncodingParams, p.wf = true → ∀ i : Instr, decodeWith p (encodeWith p i) = .instr i

/-- R81, R93: a word that decodes to an instruction is that instruction's word but for the bits no block reads. That the
decoder drops those bits and the encoder writes 0 there is the model's choice (log entry 10), after R96's listings, which
are the spec's decision D3. -/
def Obligations.EncodeOfDecode : Prop :=
  ∀ (p : EncodingParams) (w : Word) (i : Instr), decodeWith p w = .instr i → encodeWith p i = w &&& ~~~ i.ignoredBits

/-- R93: bits 10:6 of an R-format word and bits 25:21 of a lui word do not matter, for any encoding numbers. -/
def Obligations.IgnoredBitsDoNotMatter : Prop :=
  ∀ p : EncodingParams, p.wf = true → ∀ w w' : Word,
    ((partition w).op = p.opRtype → (∀ k < 32, k < 6 ∨ 10 < k → w'.getLsbD k = w.getLsbD k) →
      decodeWith p w' = decodeWith p w) ∧
    ((partition w).op = p.opLui → (∀ k < 32, k < 21 ∨ 25 < k → w'.getLsbD k = w.getLsbD k) →
      decodeWith p w' = decodeWith p w)

/-- The "match" and "mask" columns of spec/opcode_table.json, with the fields of R81: a word of a row decodes to the row's
instruction. The numbers are the spec's defaults (R6, D1, D2; log entry 1), the model's choice among the admissible. -/
def Obligations.TableRowsDecode : Prop :=
  ∀ w : Word,
    (w &&& 0xFC00003F#32 = 0x00000020#32 →
      decode w = .instr (.add (w.extractLsb' 11 5) (w.extractLsb' 21 5) (w.extractLsb' 16 5))) ∧
    (w &&& 0xFC00003F#32 = 0x00000022#32 →
      decode w = .instr (.sub (w.extractLsb' 11 5) (w.extractLsb' 21 5) (w.extractLsb' 16 5))) ∧
    (w &&& 0xFC00003F#32 = 0x00000024#32 →
      decode w = .instr (.and (w.extractLsb' 11 5) (w.extractLsb' 21 5) (w.extractLsb' 16 5))) ∧
    (w &&& 0xFC00003F#32 = 0x00000025#32 →
      decode w = .instr (.or (w.extractLsb' 11 5) (w.extractLsb' 21 5) (w.extractLsb' 16 5))) ∧
    (w &&& 0xFC00003F#32 = 0x0000002A#32 →
      decode w = .instr (.slt (w.extractLsb' 11 5) (w.extractLsb' 21 5) (w.extractLsb' 16 5))) ∧
    (w &&& 0xFC00003F#32 = 0x0000002B#32 →
      decode w = .instr (.sltu (w.extractLsb' 11 5) (w.extractLsb' 21 5) (w.extractLsb' 16 5))) ∧
    (w &&& 0xFC000000#32 = 0x20000000#32 →
      decode w = .instr (.addi (w.extractLsb' 16 5) (w.extractLsb' 21 5) (w.extractLsb' 0 16))) ∧
    (w &&& 0xFC000000#32 = 0x28000000#32 →
      decode w = .instr (.slti (w.extractLsb' 16 5) (w.extractLsb' 21 5) (w.extractLsb' 0 16))) ∧
    (w &&& 0xFC000000#32 = 0x2C000000#32 →
      decode w = .instr (.sltiu (w.extractLsb' 16 5) (w.extractLsb' 21 5) (w.extractLsb' 0 16))) ∧
    (w &&& 0xFC000000#32 = 0x30000000#32 →
      decode w = .instr (.andi (w.extractLsb' 16 5) (w.extractLsb' 21 5) (w.extractLsb' 0 16))) ∧
    (w &&& 0xFC000000#32 = 0x34000000#32 →
      decode w = .instr (.ori (w.extractLsb' 16 5) (w.extractLsb' 21 5) (w.extractLsb' 0 16))) ∧
    (w &&& 0xFC000000#32 = 0x3C000000#32 →
      decode w = .instr (.lui (w.extractLsb' 16 5) (w.extractLsb' 0 16))) ∧
    (w &&& 0xFC000000#32 = 0x8C000000#32 →
      decode w = .instr (.lw (w.extractLsb' 16 5) (w.extractLsb' 21 5) (w.extractLsb' 0 16))) ∧
    (w &&& 0xFC000000#32 = 0xAC000000#32 →
      decode w = .instr (.sw (w.extractLsb' 16 5) (w.extractLsb' 21 5) (w.extractLsb' 0 16))) ∧
    (w &&& 0xFC000000#32 = 0x10000000#32 →
      decode w = .instr (.beq (w.extractLsb' 21 5) (w.extractLsb' 16 5) (w.extractLsb' 0 16))) ∧
    (w &&& 0xFC000000#32 = 0x08000000#32 → decode w = .instr (.j (w.extractLsb' 0 26)))

/-- Words of the spec's own listings (R171, R181, R186, R191, R192, R201, R202) decode to the instructions they stand
for, at the spec's default numbers (log entry 1). -/
def Obligations.ListedWordsDecode : Prop :=
  decode 0x00221820#32 = .instr (.add 3#5 1#5 2#5) ∧
  decode 0x20010005#32 = .instr (.addi 1#5 0#5 0x0005#16) ∧
  decode 0x3C021234#32 = .instr (.lui 2#5 0x1234#16) ∧
  decode 0x8C220008#32 = .instr (.lw 2#5 1#5 0x0008#16) ∧
  decode 0xAC220008#32 = .instr (.sw 2#5 1#5 0x0008#16) ∧
  decode 0x1000FFFF#32 = .instr (.beq 0#5 0#5 0xFFFF#16) ∧
  decode 0x08004000#32 = .instr (.j 0x0004000#26)

/-- R91: an opcode outside the eleven (53 values, 0x3F among them) raises Halt at decode, and no state is mutated; for any
encoding numbers. -/
def Obligations.UnrecognisedOpcodeHalts : Prop :=
  ∀ p : EncodingParams, p.wf = true →
    (∃ l : List Op6, l.Nodup ∧ l.length = 53 ∧ 0x3F#6 ∈ l ∧ ∀ op, op ∈ l ↔ op ∉ p.opcodes) ∧
    (∀ op, op ∉ p.opcodes → decodeRom p op = .error .opcode) ∧
    (∀ s : State, addrOK s.pc = true → (partition s.fetched).op ∉ p.opcodes →
      stepWith p s = .fault .opcode ∧ cycleWith p s = ⟨s, some .opcode⟩)

/-- R92: with the R-type opcode, a function code outside the six (58 values) raises Halt in the ALU block, and no state
changes; under any other opcode the function code cannot cause a Halt; for any encoding numbers. -/
def Obligations.UnrecognisedFunctHalts : Prop :=
  ∀ p : EncodingParams, p.wf = true →
    (∃ l : List Op6, l.Nodup ∧ l.length = 58 ∧ ∀ fn, fn ∈ l ↔ fn ∉ p.functs) ∧
    (∀ data1 data2 ext fn src, fn ∉ p.functs →
      aluWithZeroFlag p data1 data2 ext fn .useFunct src = .error .funct) ∧
    (∀ s : State, addrOK s.pc = true → (partition s.fetched).op = p.opRtype → (partition s.fetched).funct ∉ p.functs →
      stepWith p s = .fault .funct ∧ cycleWith p s = ⟨s, some .funct⟩) ∧
    (∀ s : State, (partition s.fetched).op ≠ p.opRtype →
      stepWith p s ≠ .fault .funct ∧ (cycleWith p s).halt ≠ some .funct)

/-- R95: the all-zero word is an illegal function code and the all-one word an illegal opcode, for any encoding numbers.
R95 speaks of the defaults of R6; the all-zero clause holds for the other numbers because `EncodingParams.wf` carries, beside
R6's constraints, D2's constraint that 0x00 is no function code (log entry 1). -/
def Obligations.AllZeroAndAllOneWordsHalt : Prop :=
  ∀ p : EncodingParams, p.wf = true → ∀ s : State, addrOK s.pc = true →
    (s.fetched = 0x00000000#32 → stepWith p s = .fault .funct) ∧
    (s.fetched = 0xFFFFFFFF#32 → stepWith p s = .fault .opcode)

/-! ### Addresses and fetch (20_memory.md, 40_datapath_blocks.md) -/

/-- R52: the address validity predicate, its equivalent form, the valid addresses, its use for fetch and for data, and the
source's examples. -/
def Obligations.AddressValidity : Prop :=
  (∀ a : Word,
    (addrOK a = true ↔ a.toNat % 4 = 0 ∧ a.toNat ≤ 0xFFFF ∧ a.toNat / 4 < 16384) ∧
    (addrOK a = true ↔ a.extractLsb' 16 16 = 0#16 ∧ a.extractLsb' 0 2 = 0#2) ∧
    (addrOK a = true ↔ ∃ k < 16384, a = BitVec.ofNat 32 (4 * k)) ∧
    (∀ m : Memory, (∃ w, fetchUnit a m = .ok w) ↔ addrOK a = true) ∧
    (∀ (m : Memory) (write read : Bool) (d : Word), (write || read) = true →
      ((∃ r, memUnit m write read a d = .ok r) ↔ addrOK a = true))) ∧
  addrOK 0x1#32 = false ∧ addrOK 0x10000#32 = false ∧ addrOK 0xFFFC#32 = true ∧ addrOK 0xFFFF#32 = false

/-- R113: fetch_unit answers the word at the pc, or raises Halt, and the corner cases the rule lists. -/
def Obligations.FetchUnitReadsOrHalts : Prop :=
  (∀ (pc : Word) (m : Memory),
    (pc.toNat % 4 = 0 ∧ pc.toNat ≤ 0xFFFF ∧ pc.toNat / 4 < 16384 →
      fetchUnit pc m = .ok (Memory.word m (pc.toNat / 4))) ∧
    (¬ (pc.toNat % 4 = 0 ∧ pc.toNat ≤ 0xFFFF ∧ pc.toNat / 4 < 16384) → fetchUnit pc m = .error .fetchAddr)) ∧
  (∀ m : Memory,
    fetchUnit 0x1#32 m = .error .fetchAddr ∧ fetchUnit 0x10000#32 m = .error .fetchAddr ∧
    fetchUnit 0xFFFC#32 m = .ok (Memory.word m 16383) ∧ fetchUnit 0xFFFFFFFC#32 m = .error .fetchAddr ∧
    fetchUnit 0x0002#32 m = .error .fetchAddr)

/-- R114: the seven fields as numbers, and the rule's example. -/
def Obligations.PartitionCutsFields : Prop :=
  (∀ w : Word,
    (partition w).op.toNat = w.toNat / 2 ^ 26 ∧
    (partition w).rs.toNat = w.toNat / 2 ^ 21 % 2 ^ 5 ∧
    (partition w).rt.toNat = w.toNat / 2 ^ 16 % 2 ^ 5 ∧
    (partition w).rd.toNat = w.toNat / 2 ^ 11 % 2 ^ 5 ∧
    (partition w).funct.toNat = w.toNat % 2 ^ 6 ∧
    (partition w).imm.toNat = w.toNat % 2 ^ 16 ∧
    (partition w).jt.toNat = w.toNat % 2 ^ 26) ∧
  partition 0x20010005#32 = ⟨0x08#6, 0#5, 1#5, 0#5, 0x05#6, 0x0005#16, 0x0010005#26⟩

/-! ### The blocks (40_datapath_blocks.md) -/

/-- R115: the eleven rows of the control table, for any encoding numbers. The cells the source leaves as "—" are the spec's
decision (R117, D5). -/
def Obligations.ControlTable : Prop :=
  ∀ p : EncodingParams, p.wf = true →
    decodeRom p p.opRtype = .ok ⟨.rd, false, false, .alu, .useFunct, false, .reg, true, false⟩ ∧
    decodeRom p p.opAddi = .ok ⟨.rt, false, false, .alu, .direct .add, false, .imm, true, false⟩ ∧
    decodeRom p p.opSlti = .ok ⟨.rt, false, false, .alu, .direct .slt, false, .imm, true, false⟩ ∧
    decodeRom p p.opSltiu = .ok ⟨.rt, false, false, .alu, .direct .sltu, false, .imm, true, false⟩ ∧
    decodeRom p p.opAndi = .ok ⟨.rt, false, false, .alu, .direct .and, false, .imm, true, false⟩ ∧
    decodeRom p p.opOri = .ok ⟨.rt, false, false, .alu, .direct .or, false, .imm, true, false⟩ ∧
    decodeRom p p.opLui = .ok ⟨.rt, false, false, .alu, .direct .shl16, false, .imm, true, false⟩ ∧
    decodeRom p p.opLw = .ok ⟨.rt, false, true, .mem, .direct .add, false, .imm, true, false⟩ ∧
    decodeRom p p.opSw = .ok ⟨.rt, false, false, .alu, .direct .add, true, .imm, false, false⟩ ∧
    decodeRom p p.opBeq = .ok ⟨.rt, true, false, .alu, .direct .sub, false, .reg, false, false⟩ ∧
    decodeRom p p.opJ = .ok ⟨.rt, false, false, .alu, .direct .add, false, .reg, false, true⟩

/-- R22: register 0 reads 0 in every state, and no writeback mutates it, whatever the control signals; a write to index 0
changes nothing. -/
def Obligations.RegisterZeroHardwired : Prop :=
  (∀ s : State, s.readReg 0#5 = 0#32) ∧
  (∀ (s : State) (v : Word), s.writeReg 0#5 v = s) ∧
  (∀ (x : RegFile) (rt rd : RegIdx) (memdata result : Word) (w : Bool) (d : RegDst) (m : MemToReg),
    (regWritePort x rt rd memdata result w d m)[0] = x[0] ∧
    RegFile.read (regWritePort x rt rd memdata result w d m) 0#5 = 0#32) ∧
  (∀ (x : RegFile) (memdata result : Word) (w : Bool) (d : RegDst) (m : MemToReg),
    regWritePort x 0#5 0#5 memdata result w d m = x)

/-- R119: sign extension, and the rule's examples. -/
def Obligations.SignExtension : Prop :=
  (∀ imm : Imm16,
    (imm.getLsbD 15 = false → (signExtender imm).toNat = imm.toNat) ∧
    (imm.getLsbD 15 = true → signExtender imm = BitVec.ofNat 32 (imm.toNat + 0xFFFF0000)) ∧
    (∀ k < 32, (signExtender imm).getLsbD k = if k < 16 then imm.getLsbD k else imm.getLsbD 15) ∧
    (signExtender imm).toInt = imm.toInt) ∧
  signExtender 0x0001#16 = 0x00000001#32 ∧ signExtender 0xFFFF#16 = 0xFFFFFFFF#32 ∧
  signExtender 0x7FFF#16 = 0x00007FFF#32 ∧ signExtender 0x8000#16 = 0xFFFF8000#32 ∧
  signExtender 0x0000#16 = 0x00000000#32

/-- R120, R121: operand A is the source-register value, operand B follows ALUSrc; the selector is ALUOp used directly, or
is looked up from the function code under "use funct", where a code outside the six halts and no code selects SHL16 or
NOTA; for any encoding numbers. -/
def Obligations.OperandAndSelectorResolution : Prop :=
  ∀ p : EncodingParams, p.wf = true → ∀ (data1 data2 ext : Word) (fn : Op6) (sel : AluSel),
    aluWithZeroFlag p data1 data2 ext fn (.direct sel) .imm = .ok (alu sel data1 ext) ∧
    aluWithZeroFlag p data1 data2 ext fn (.direct sel) .reg = .ok (alu sel data1 data2) ∧
    (∀ src : AluSrc,
      aluWithZeroFlag p data1 data2 ext p.fnAdd .useFunct src = .ok (alu .add data1 (operandB src data2 ext)) ∧
      aluWithZeroFlag p data1 data2 ext p.fnSub .useFunct src = .ok (alu .sub data1 (operandB src data2 ext)) ∧
      aluWithZeroFlag p data1 data2 ext p.fnAnd .useFunct src = .ok (alu .and data1 (operandB src data2 ext)) ∧
      aluWithZeroFlag p data1 data2 ext p.fnOr .useFunct src = .ok (alu .or data1 (operandB src data2 ext)) ∧
      aluWithZeroFlag p data1 data2 ext p.fnSlt .useFunct src = .ok (alu .slt data1 (operandB src data2 ext)) ∧
      aluWithZeroFlag p data1 data2 ext p.fnSltu .useFunct src = .ok (alu .sltu data1 (operandB src data2 ext)) ∧
      (fn ∉ p.functs → aluWithZeroFlag p data1 data2 ext fn .useFunct src = .error .funct)) ∧
    functSelector p fn ≠ .ok .shl16 ∧ functSelector p fn ≠ .ok .nota

/-- R122: the eight ALU results as arithmetic on numbers and bits, and the rule's corner cases. -/
def Obligations.AluOperations : Prop :=
  (∀ a b : Word,
    (alu .add a b).1.toNat = (a.toNat + b.toNat) % 2 ^ 32 ∧
    (alu .sub a b).1 = BitVec.ofInt 32 ((a.toNat : Int) - (b.toNat : Int)) ∧
    (alu .slt a b).1.toNat = (if a.toInt < b.toInt then 1 else 0) ∧
    (alu .sltu a b).1.toNat = (if a.toNat < b.toNat then 1 else 0) ∧
    (∀ k, (alu .and a b).1.getLsbD k = (a.getLsbD k && b.getLsbD k)) ∧
    (∀ k, (alu .or a b).1.getLsbD k = (a.getLsbD k || b.getLsbD k)) ∧
    (alu .shl16 a b).1.toNat = b.toNat % 2 ^ 16 * 2 ^ 16 ∧
    (alu .nota a b).1.toNat = 2 ^ 32 - 1 - a.toNat) ∧
  (alu .add 0x7FFFFFFF#32 0x00000001#32).1 = 0x80000000#32 ∧
  (alu .sub 0x00000000#32 0x00000001#32).1 = 0xFFFFFFFF#32 ∧
  (alu .sub 0x80000000#32 0x00000001#32).1 = 0x7FFFFFFF#32 ∧
  (alu .slt 0x80000000#32 0x00000001#32).1 = 1#32 ∧ (alu .slt 0x7FFFFFFF#32 0xFFFFFFFF#32).1 = 0#32 ∧
  (alu .sltu 0x80000000#32 0x00000001#32).1 = 0#32 ∧ (alu .sltu 0x7FFFFFFF#32 0xFFFFFFFF#32).1 = 1#32

/-- R123, R124: the zero flag says that the result is 0, for every selector, and only a branch consumes it; an unrecognised
selector (port numbers 8 to 15) gives result 0 with the zero flag set, and no instruction presents one. -/
def Obligations.ZeroFlagAndUnrecognisedSelector : Prop :=
  (∀ (sel : AluSel) (a b : Word), (alu sel a b).2 = true ↔ (alu sel a b).1 = 0#32) ∧
  (alu .add 0xFFFFFFFF#32 1#32 = (0#32, true)) ∧
  (∀ (pc : Word) (jt : Target26) (ext : Word) (jump z z' : Bool),
    pcSequencer pc jt ext jump false z = pcSequencer pc jt ext jump false z') ∧
  (∀ (n : BitVec 4) (a b : Word), 8 ≤ n.toNat → alu (AluSel.ofPort n) a b = (0#32, true)) ∧
  (∀ (p : EncodingParams) (op fn : Op6) (c : ControlVector) (sel : AluSel), decodeRom p op = .ok c →
    resolveSelector p c.aluOp fn = .ok sel → ∃ n : BitVec 4, n.toNat ≤ 6 ∧ AluSel.ofPort n = sel)

/-- R125, R126: without a memory flag the memory unit neither checks nor touches memory; with one, a bad address halts
whatever the flags are, and a good address does not. The 0 a unit without a read puts out is the spec's decision D16. -/
def Obligations.MemoryUnitChecksFlaggedAccessesOnly : Prop :=
  ∀ (m : Memory) (addr wdata : Word),
    memUnit m false false addr wdata = .ok (m, 0#32) ∧
    (∀ write read : Bool, (write || read) = true →
      (addr.toNat % 4 = 0 ∧ addr.toNat ≤ 0xFFFF ↔ ∃ r, memUnit m write read addr wdata = .ok r) ∧
      (¬ (addr.toNat % 4 = 0 ∧ addr.toNat ≤ 0xFFFF) → memUnit m write read addr wdata = .error .dataAddr))

/-- R127: with the check passed, a write stores the word at the address and leaves every other word, a read returns the word
at the address, and with both flags the read returns the word just written. -/
def Obligations.MemoryUnitWritesThenReads : Prop :=
  ∀ (m : Memory) (addr wdata : Word), addrOK addr = true →
    memUnit m false true addr wdata = .ok (m, Memory.word m (addr.toNat / 4)) ∧
    ∃ m' : Memory,
      (∀ k, Memory.word m' k = if k = addr.toNat / 4 then wdata else Memory.word m k) ∧
      memUnit m true true addr wdata = .ok (m', wdata) ∧
      ∃ d, memUnit m true false addr wdata = .ok (m', d)

/-- R128: the write port commits nothing without RegWrite, and otherwise writes the selected value to the selected index and
to no other; index 0 discards it; a cycle that halts at an earlier stage writes no register. -/
def Obligations.RegisterWritePort : Prop :=
  (∀ (x : RegFile) (rt rd : RegIdx) (memdata result : Word) (d : RegDst) (m : MemToReg),
    regWritePort x rt rd memdata result false d m = x ∧
    ∀ idx val, idx = (if d = .rd then rd else rt) → val = (if m = .mem then memdata else result) →
      (idx = 0#5 → regWritePort x rt rd memdata result true d m = x) ∧
      (idx ≠ 0#5 → RegFile.read (regWritePort x rt rd memdata result true d m) idx = val) ∧
      (∀ q, q ≠ idx → RegFile.read (regWritePort x rt rd memdata result true d m) q = RegFile.read x q)) ∧
  (∀ (p : EncodingParams) (s : State), (cycleWith p s).halt ≠ none → (cycleWith p s).state.regs = s.regs)

/-- R129: jump before branch before `pc + 4`, each as arithmetic modulo `2^32`, and the rule's examples. -/
def Obligations.PcSequencer : Prop :=
  (∀ (pc : Word) (jt : Target26) (ext : Word) (branch zero : Bool),
    (pcSequencer pc jt ext true branch zero).toNat = ((pc.toNat + 4) % 2 ^ 32) / 2 ^ 28 * 2 ^ 28 + jt.toNat * 4 ∧
    (pcSequencer pc jt ext false true true).toNat = (pc.toNat + 4 + ext.toNat * 4) % 2 ^ 32 ∧
    ((branch && zero) = false → (pcSequencer pc jt ext false branch zero).toNat = (pc.toNat + 4) % 2 ^ 32)) ∧
  (∀ jt, pcSequencer 0x0#32 jt 0xFFFFFFFF#32 false true true = 0x0#32) ∧
  (∀ ext branch zero, pcSequencer 0x0014#32 2#26 ext true branch zero = 0x00000008#32) ∧
  (∀ jt ext zero, pcSequencer 0xFFFC#32 jt ext false false zero = 0x00010000#32)

/-! ### The instructions (41 to 44): each completes, with its result and its frame -/

/-- R171: add completes in every state; the sum is modulo `2^32`. -/
def Obligations.AddResult : Prop :=
  ∀ (rd rs rt : RegIdx) (s : State), ∃ t, exec (.add rd rs rt) s = .next t ∧
    WritesReg s t rd (BitVec.ofNat 32 ((s.readReg rs).toNat + (s.readReg rt).toNat))

/-- R172: sub completes in every state; the difference `x[rs] - x[rt]` is modulo `2^32`. -/
def Obligations.SubResult : Prop :=
  ∀ (rd rs rt : RegIdx) (s : State), ∃ t, exec (.sub rd rs rt) s = .next t ∧
    WritesReg s t rd (BitVec.ofInt 32 (((s.readReg rs).toNat : Int) - ((s.readReg rt).toNat : Int)))

/-- R173: and completes in every state; bit by bit AND. -/
def Obligations.AndResult : Prop :=
  ∀ (rd rs rt : RegIdx) (s : State), ∃ t v, exec (.and rd rs rt) s = .next t ∧ WritesReg s t rd v ∧
    ∀ k, v.getLsbD k = ((s.readReg rs).getLsbD k && (s.readReg rt).getLsbD k)

/-- R174: or completes in every state; bit by bit OR. -/
def Obligations.OrResult : Prop :=
  ∀ (rd rs rt : RegIdx) (s : State), ∃ t v, exec (.or rd rs rt) s = .next t ∧ WritesReg s t rd v ∧
    ∀ k, v.getLsbD k = ((s.readReg rs).getLsbD k || (s.readReg rt).getLsbD k)

/-- R175: slt completes in every state; 1 or 0 by the exact signed comparison. -/
def Obligations.SltResult : Prop :=
  ∀ (rd rs rt : RegIdx) (s : State), ∃ t, exec (.slt rd rs rt) s = .next t ∧
    WritesReg s t rd (if (s.readReg rs).toInt < (s.readReg rt).toInt then 1#32 else 0#32)

/-- R176: sltu completes in every state; 1 or 0 by the unsigned comparison. -/
def Obligations.SltuResult : Prop :=
  ∀ (rd rs rt : RegIdx) (s : State), ∃ t, exec (.sltu rd rs rt) s = .next t ∧
    WritesReg s t rd (if (s.readReg rs).toNat < (s.readReg rt).toNat then 1#32 else 0#32)

/-- R181: addi completes in every state, without a trap; the signed immediate is added modulo `2^32`. -/
def Obligations.AddiResult : Prop :=
  ∀ (rt rs : RegIdx) (imm : Imm16) (s : State), ∃ t, exec (.addi rt rs imm) s = .next t ∧
    WritesReg s t rt (BitVec.ofInt 32 ((s.readReg rs).toInt + imm.toInt))

/-- R182: slti completes in every state; 1 or 0 by the signed comparison with the signed immediate. -/
def Obligations.SltiResult : Prop :=
  ∀ (rt rs : RegIdx) (imm : Imm16) (s : State), ∃ t, exec (.slti rt rs imm) s = .next t ∧
    WritesReg s t rt (if (s.readReg rs).toInt < imm.toInt then 1#32 else 0#32)

/-- R183: sltiu completes in every state; the immediate is sign-extended first, so 0x8000 to 0xFFFF stand for 0xFFFF8000 to
0xFFFFFFFF, and then compared unsigned. -/
def Obligations.SltiuResult : Prop :=
  ∀ (rt rs : RegIdx) (imm : Imm16) (s : State), ∃ t, exec (.sltiu rt rs imm) s = .next t ∧
    WritesReg s t rt
      (if (s.readReg rs).toNat < (if imm.toNat < 0x8000 then imm.toNat else imm.toNat + 0xFFFF0000) then 1#32 else 0#32)

/-- R184: andi completes in every state; the immediate is sign-extended, so bit 15 of it is ANDed with the upper half. -/
def Obligations.AndiResult : Prop :=
  ∀ (rt rs : RegIdx) (imm : Imm16) (s : State), ∃ t v, exec (.andi rt rs imm) s = .next t ∧ WritesReg s t rt v ∧
    ∀ k < 32, v.getLsbD k = ((s.readReg rs).getLsbD k && imm.getLsbD (if k < 16 then k else 15))

/-- R185: ori completes in every state; the immediate is sign-extended, so bit 15 of it is ORed with the upper half. -/
def Obligations.OriResult : Prop :=
  ∀ (rt rs : RegIdx) (imm : Imm16) (s : State), ∃ t v, exec (.ori rt rs imm) s = .next t ∧ WritesReg s t rt v ∧
    ∀ k < 32, v.getLsbD k = ((s.readReg rs).getLsbD k || imm.getLsbD (if k < 16 then k else 15))

/-- R186: lui completes in every state; the result is `imm ∥ 0x0000`. -/
def Obligations.LuiResult : Prop :=
  ∀ (rt : RegIdx) (imm : Imm16) (s : State), ∃ t, exec (.lui rt imm) s = .next t ∧
    WritesReg s t rt (BitVec.ofNat 32 (imm.toNat * 65536))

/-- R191: lw completes when its address is a multiple of 4 and at most 0xFFFF, and loads the word there; otherwise it raises
Halt(DATA_ADDR), also when `rt` is 0. -/
def Obligations.LwResult : Prop :=
  ∀ (rt rs : RegIdx) (imm : Imm16) (s : State) (ea : Nat), ea = (effectiveAddress (s.readReg rs) imm).toNat →
    (ea % 4 = 0 ∧ ea ≤ 0xFFFF → ∃ t, exec (.lw rt rs imm) s = .next t ∧
      WritesReg s t rt (Memory.word s.mem (ea / 4))) ∧
    (¬ (ea % 4 = 0 ∧ ea ≤ 0xFFFF) → exec (.lw rt rs imm) s = .fault .dataAddr)

/-- R192: sw completes when its address is a multiple of 4 and at most 0xFFFF; it stores `x[rt]` at the word there, leaves
every other word and every register, and advances the pc; otherwise it raises Halt(DATA_ADDR). -/
def Obligations.SwResult : Prop :=
  ∀ (rt rs : RegIdx) (imm : Imm16) (s : State) (ea : Nat), ea = (effectiveAddress (s.readReg rs) imm).toNat →
    (ea % 4 = 0 ∧ ea ≤ 0xFFFF → ∃ t, exec (.sw rt rs imm) s = .next t ∧
      (∀ k, Memory.word t.mem k = if k = ea / 4 then s.readReg rt else Memory.word s.mem k) ∧
      SameRegs s t ∧ t.pc = s.pc + 4#32) ∧
    (¬ (ea % 4 = 0 ∧ ea ≤ 0xFFFF) → exec (.sw rt rs imm) s = .fault .dataAddr)

/-- R201: beq completes in every state; it is taken exactly when the two registers are equal, and only the pc changes. -/
def Obligations.BeqResult : Prop :=
  ∀ (rs rt : RegIdx) (imm : Imm16) (s : State), ∃ t, exec (.beq rs rt imm) s = .next t ∧
    t.pc = BitVec.ofInt 32 ((s.pc.toNat : Int) + 4 + (if s.readReg rs = s.readReg rt then 4 * imm.toInt else 0)) ∧
    SameRegs s t ∧ SameMemory s t

/-- R202: j completes in every state; the target is the top four bits of `pc + 4`, then the field, then 00, and only the pc
changes. -/
def Obligations.JResult : Prop :=
  ∀ (jt : Target26) (s : State), ∃ t, exec (.j jt) s = .next t ∧
    t.pc.toNat = (s.pc.toNat + 4) % 2 ^ 32 / 2 ^ 28 * 2 ^ 28 + 4 * jt.toNat ∧ SameRegs s t ∧ SameMemory s t

/-! ### The cycle (40_datapath_blocks.md, 41, 42, 43) -/

/-- R110: when the word at the pc decodes to an instruction, a step is `exec` of it in that very state; an opcode-table word
placed with `withFetchWord` is what the next step runs. -/
def Obligations.StepRunsDecoded : Prop :=
  (∀ (p : EncodingParams) (s : State) (i : Instr), addrOK s.pc = true → decodeWith p s.fetched = .instr i →
    stepWith p s = exec i s) ∧
  (∀ (s : State) (nbits w : Nat) (i : Instr), addrOK s.pc = true → decodeTableWord nbits w = some i →
    step (s.withFetchWord nbits w) = exec i (s.withFetchWord nbits w))

/-- R12, R110: the instruction meanings and the nine-block cycle are the same machine, for any encoding numbers: they agree
on the next state, on whether Halt is raised, and on its cause. -/
def Obligations.StepRefinesCycle : Prop :=
  ∀ p : EncodingParams, p.wf = true → ∀ s : State, stepWith p s = (cycleWith p s).result

/-- R170: what an R-type word does, from its control vector to the state after it, for any encoding numbers. -/
def Obligations.RTypeCycle : Prop :=
  ∀ p : EncodingParams, p.wf = true →
    decodeRom p p.opRtype = .ok ⟨.rd, false, false, .alu, .useFunct, false, .reg, true, false⟩ ∧
    ∀ s : State, (addrOK s.pc = false → stepWith p s = .fault .fetchAddr) ∧
      (addrOK s.pc = true → ∀ f, f = partition s.fetched → f.op = p.opRtype →
        (f.funct ∉ p.functs → stepWith p s = .fault .funct) ∧
        ∀ q ∈ [(p.fnAdd, AluSel.add), (p.fnSub, .sub), (p.fnAnd, .and), (p.fnOr, .or), (p.fnSlt, .slt), (p.fnSltu, .sltu)],
          f.funct = q.1 → ∃ t, stepWith p s = .next t ∧
            WritesReg s t f.rd (alu q.2 (s.readReg f.rs) (s.readReg f.rt)).1)

/-- R180: what an immediate ALU word does, from its control vector to the state after it, for any encoding numbers. -/
def Obligations.ITypeCycle : Prop :=
  ∀ p : EncodingParams, p.wf = true →
    ∀ q ∈ [(p.opAddi, AluSel.add), (p.opSlti, .slt), (p.opSltiu, .sltu), (p.opAndi, .and), (p.opOri, .or),
        (p.opLui, .shl16)],
      decodeRom p q.1 = .ok ⟨.rt, false, false, .alu, .direct q.2, false, .imm, true, false⟩ ∧
      ∀ s : State, (addrOK s.pc = false → stepWith p s = .fault .fetchAddr) ∧
        (addrOK s.pc = true → ∀ f, f = partition s.fetched → f.op = q.1 →
          ∃ t, stepWith p s = .next t ∧ WritesReg s t f.rt (alu q.2 (s.readReg f.rs) (signExtender f.imm)).1)

/-- R190: base plus signed displacement modulo `2^32`; the access is made only at a valid address, otherwise Halt(DATA_ADDR)
is raised and no register, no memory word and not the pc changes; the base register is not modified; the rule's examples. -/
def Obligations.AddressingMode : Prop :=
  (∀ (base : Word) (imm : Imm16), effectiveAddress base imm = BitVec.ofInt 32 ((base.toNat : Int) + imm.toInt)) ∧
  (∀ p : EncodingParams, p.wf = true → ∀ s : State, addrOK s.pc = true → ∀ f, f = partition s.fetched →
    f.op = p.opLw ∨ f.op = p.opSw →
      (addrOK (effectiveAddress (s.readReg f.rs) f.imm) = true → ∃ t, stepWith p s = .next t ∧
        (f.op = p.opSw ∨ f.rs ≠ f.rt → t.readReg f.rs = s.readReg f.rs)) ∧
      (addrOK (effectiveAddress (s.readReg f.rs) f.imm) = false →
        stepWith p s = .fault .dataAddr ∧ cycleWith p s = ⟨s, some .dataAddr⟩)) ∧
  effectiveAddress 0x00010000#32 0xFFFC#16 = 0x0000FFFC#32 ∧ addrOK 0x0000FFFC#32 = true ∧
  effectiveAddress 0xFFFFFFFC#32 8#16 = 0x00000004#32 ∧ addrOK 0x00000004#32 = true ∧
  effectiveAddress 0#32 0xFFFC#16 = 0xFFFFFFFC#32 ∧ addrOK 0xFFFFFFFC#32 = false

/-! ### Whole-machine rules -/

/-- R211, R212: a step raises Halt for exactly the causes of R211, each under exactly its condition, and it never refuses; for
any encoding numbers. The four labels are the spec's names (D13). -/
def Obligations.HaltCauses : Prop :=
  ∀ p : EncodingParams, p.wf = true → ∀ (s : State) (f : Fields), f = partition s.fetched →
    (stepWith p s = .fault .fetchAddr ↔ s.pc.toNat % 4 ≠ 0 ∨ 0xFFFF < s.pc.toNat) ∧
    (stepWith p s = .fault .opcode ↔ addrOK s.pc = true ∧ f.op ∉ p.opcodes) ∧
    (stepWith p s = .fault .funct ↔ addrOK s.pc = true ∧ f.op = p.opRtype ∧ f.funct ∉ p.functs) ∧
    (stepWith p s = .fault .dataAddr ↔ addrOK s.pc = true ∧ (f.op = p.opLw ∨ f.op = p.opSw) ∧
      addrOK (effectiveAddress (s.readReg f.rs) f.imm) = false) ∧
    (∀ r, stepWith p s ≠ .refused r)

/-- R213, R130: a cycle that raises Halt changes nothing, pc included, and the clock edge commits nothing; a cycle that does
not raises no cause and the edge commits its state. That the pc is kept too is the spec's reading D6. -/
def Obligations.HaltingCycleChangesNothing : Prop :=
  (∀ (p : EncodingParams) (s : State) (c : Fault), (cycleWith p s).halt = some c → (cycleWith p s).state = s) ∧
  (∀ s : State, haltPin s = true → clockEdge false s = s) ∧
  (∀ s t : State, haltPin s = false → (step s = .next t ↔ clockEdge false s = t)) ∧
  (∀ s : State, haltPin s = true ↔ ∃ c, step s = .fault c)

/-- R216: after a Halt every further cycle that is issued raises Halt again and changes nothing. This rests on two choices:
that a halting cycle leaves the pc too unchanged (D6, log entry 8), and that the driver changes nothing between the cycles
(D20, log entry 6; R216's "as long as nothing outside the core changes the state"). -/
def Obligations.HaltPersists : Prop :=
  ∀ (s : State) (n : Nat), haltPin s = true → clockEdges n s = s ∧ haltPin (clockEdges n s) = true

/-- R219: a run ends at most once: the number of instructions executed, the final state and the cause are determined (the
definition of a run's end is the spec's, D12). -/
def Obligations.RunEndsOnce : Prop :=
  ∀ (n m : Nat) (s t u : State) (c d : Fault), EndsAt n s t c → EndsAt m s u d → n = m ∧ t = u ∧ c = d

/-- R22, R26, R27: a step keeps memory in its canonical form, register 0 unwritten and the pc aligned, from every state and
for any encoding numbers. -/
def Obligations.StepKeepsInv : Prop :=
  ∀ (p : EncodingParams) (s t : State), StateInv s → stepWith p s = .next t → StateInv t

/-- R22, R26, R27, R240: the state after reset, and every boot state with a canonical image, meets the invariant, and so does
the state after a reset edge. The reset values are the defaults of D9 (log entry 2), and what a reset edge does is the
spec's decision D10 (log entry 12). -/
def Obligations.ResetMeetsInv : Prop :=
  StateInv State.reset ∧ (∀ image, Memory.wf image = true → StateInv (boot image)) ∧ (∀ s, StateInv s → StateInv (clockEdge true s))

/-- R26: from a state that meets the invariant no run reaches a misaligned fetch: a run ends with Halt(FETCH_ADDR) only by
leaving the address range. A run is one between whose cycles the driver changes nothing (D20, log entry 6), and it ends at
the first cycle that raises Halt (D12, log entry 14). -/
def Obligations.RunNeverMisaligned : Prop :=
  ∀ (n : Nat) (s t : State), StateInv s → Completes n s t →
    t.pc.toNat % 4 = 0 ∧ (EndsAt n s t .fetchAddr → 0xFFFF < t.pc.toNat)

/-- R27, R54, R66: memory changes only by a store-word, at its effective address alone, to the value of its data register. -/
def Obligations.OnlyStoreWordChangesMemory : Prop :=
  ∀ (p : EncodingParams) (s t : State), stepWith p s = .next t →
    ∀ k, Memory.word t.mem k ≠ Memory.word s.mem k → ∃ rt rs imm,
      decodeWith p s.fetched = .instr (.sw rt rs imm) ∧ k = wordIndex (effectiveAddress (s.readReg rs) imm) ∧
      k < 16384 ∧ Memory.word t.mem k = s.readReg rt

/-- R23: a step changes at most one register, the destination of its instruction; sw, beq and j change none. -/
def Obligations.OnlyDestinationRegisterChanges : Prop :=
  ∀ (p : EncodingParams) (s t : State), stepWith p s = .next t →
    ∃ i, decodeWith p s.fetched = .instr i ∧ ∀ r, t.readReg r ≠ s.readReg r → dest i = some r

/-- R23, R118, R132: the outcome of a step depends on no register but `x[rs]` and `x[rt]` of the fetched word: two states
that agree on pc, memory and those two halt alike, or go on to equal pc and memory with every register either equal in
both or unchanged in both. -/
def Obligations.StepReadsOnlyRsAndRt : Prop :=
  ∀ (p : EncodingParams) (s u : State) (f : Fields), f = partition s.fetched → u.pc = s.pc → u.mem = s.mem →
    u.readReg f.rs = s.readReg f.rs → u.readReg f.rt = s.readReg f.rt →
    (∀ c, stepWith p s = .fault c → stepWith p u = .fault c) ∧
    (∀ t, stepWith p s = .next t → ∃ v, stepWith p u = .next v ∧ v.pc = t.pc ∧ v.mem = t.mem ∧
      ∀ r, v.readReg r = t.readReg r ∨ (v.readReg r = u.readReg r ∧ t.readReg r = s.readReg r))

/-- R61, R64: the word a store-word has stored is the word that a fetch from that address, or a load from it, sees from the
next cycle on; every other address reads as before. -/
def Obligations.StoredWordIsFetched : Prop :=
  ∀ (p : EncodingParams) (s t u : State) (rt rs : RegIdx) (imm : Imm16) (ea : Word),
    decodeWith p s.fetched = .instr (.sw rt rs imm) → ea = effectiveAddress (s.readReg rs) imm →
    stepWith p s = .next t → u.mem = t.mem →
    fetchUnit ea u.mem = .ok (s.readReg rt) ∧ u.load ea = s.readReg rt ∧
    ∀ a, addrOK a = true → a ≠ ea → fetchUnit a u.mem = fetchUnit a s.mem

/-- R27: memory is canonical: two well-formed memories that list the same word at every index are equal. -/
def Obligations.EqualMemoriesAreEqualLists : Prop :=
  ∀ m m' : Memory, Memory.wf m = true → Memory.wf m' = true → (∀ k, Memory.word? m k = Memory.word? m' k) → m = m'

/-- R88, R200: from a valid pc the target of j is `4 * jt`, and the next fetch raises Halt(FETCH_ADDR) exactly when `jt` is
0x4000 or more; the jump itself completes. -/
def Obligations.JumpOutOfRangeHaltsNextFetch : Prop :=
  ∀ (p : EncodingParams) (s : State) (jt : Target26), addrOK s.pc = true → ∃ t, exec (.j jt) s = .next t ∧
    t.pc.toNat = 4 * jt.toNat ∧ (stepWith p t = .fault .fetchAddr ↔ 0x4000 ≤ jt.toNat)

/-- R34 to R37: the state after reset. That registers 1 to 31 and the pc are 0 is the spec's default D9 (log entry 2), and
that an unset word is an arbitrary value is log entry 3. -/
def Obligations.ResetState : Prop :=
  State.reset.pc = 0x00000000#32 ∧ addrOK State.reset.pc = true ∧ (∀ r, State.reset.readReg r = 0#32) ∧
  (∀ k, Memory.word State.reset.mem k = Config.image k)

/-- R240: a reset edge loads the pc and the registers, does not touch memory, and executes nothing (the spec's decision
D10); from any state it leads to the state a driver boots with the memory that is there. -/
def Obligations.ResetEdgeKeepsMemory : Prop :=
  ∀ s : State, (clockEdge true s).pc = resetPc ∧ (∀ r, (clockEdge true s).readReg r = State.reset.readReg r) ∧
    SameMemory s (clockEdge true s) ∧ clockEdge true s = boot s.mem

end
end

