-- ==== Sys2Proof/Laws/Encoding.lean ====
section
/-! SUPPORT. The bits of the words the encoder builds, and the fields `partition` cuts from them. -/

namespace Sys2Proof

variable (op fn : Op6) (rs rt rd : RegIdx) (imm : Imm16) (jt : Target26)

/-- The bits of an R-format word (R82). -/
theorem rWord_getLsbD (k : Nat) :
    (rWord op rs rt rd fn).getLsbD k =
      if k < 6 then fn.getLsbD k else if k < 11 then false else if k < 16 then rd.getLsbD (k - 11)
      else if k < 21 then rt.getLsbD (k - 16) else if k < 26 then rs.getLsbD (k - 21) else op.getLsbD (k - 26) := by
  have h : (rWord op rs rt rd fn).getLsbD k =
      BitVec.getLsbD (w := 6 + 5 + 5 + 5 + 5 + 6) (op ++ rs ++ rt ++ rd ++ 0#5 ++ fn) k := rfl
  rw [h]
  simp only [BitVec.getLsbD_append, Nat.sub_sub, BitVec.getLsbD_zero]
  split_ifs <;> first | rfl | omega

/-- The bits of an I-format word (R83). -/
theorem iWord_getLsbD (k : Nat) :
    (iWord op rs rt imm).getLsbD k =
      if k < 16 then imm.getLsbD k else if k < 21 then rt.getLsbD (k - 16) else if k < 26 then rs.getLsbD (k - 21)
      else op.getLsbD (k - 26) := by
  have h : (iWord op rs rt imm).getLsbD k = BitVec.getLsbD (w := 6 + 5 + 5 + 16) (op ++ rs ++ rt ++ imm) k := rfl
  rw [h]
  simp only [BitVec.getLsbD_append, Nat.sub_sub]
  split_ifs <;> first | rfl | omega

/-- The bits of a J-format word (R84). -/
theorem jWord_getLsbD (k : Nat) :
    (jWord op jt).getLsbD k = if k < 26 then jt.getLsbD k else op.getLsbD (k - 26) :=
  BitVec.getLsbD_append

/-- A field of a word is `f` when the word's bits from `start` on are `f`'s. -/
theorem extractLsb'_eq_of_bits {n : Nat} (w : Word) (start : Nat) (f : BitVec n)
    (h : ∀ k < n, w.getLsbD (start + k) = f.getLsbD k) : w.extractLsb' start n = f := by
  apply BitVec.eq_of_getLsbD_eq
  intro k hk
  rw [BitVec.getLsbD_extractLsb', h k hk]
  simp [hk]

@[simp] theorem partition_rWord_op : (partition (rWord op rs rt rd fn)).op = op :=
  extractLsb'_eq_of_bits _ 26 op fun k hk => by rw [rWord_getLsbD]; interval_cases k <;> rfl
@[simp] theorem partition_rWord_rs : (partition (rWord op rs rt rd fn)).rs = rs :=
  extractLsb'_eq_of_bits _ 21 rs fun k hk => by rw [rWord_getLsbD]; interval_cases k <;> rfl
@[simp] theorem partition_rWord_rt : (partition (rWord op rs rt rd fn)).rt = rt :=
  extractLsb'_eq_of_bits _ 16 rt fun k hk => by rw [rWord_getLsbD]; interval_cases k <;> rfl
@[simp] theorem partition_rWord_rd : (partition (rWord op rs rt rd fn)).rd = rd :=
  extractLsb'_eq_of_bits _ 11 rd fun k hk => by rw [rWord_getLsbD]; interval_cases k <;> rfl
@[simp] theorem partition_rWord_funct : (partition (rWord op rs rt rd fn)).funct = fn :=
  extractLsb'_eq_of_bits _ 0 fn fun k hk => by rw [rWord_getLsbD]; interval_cases k <;> rfl

@[simp] theorem partition_iWord_op : (partition (iWord op rs rt imm)).op = op :=
  extractLsb'_eq_of_bits _ 26 op fun k hk => by rw [iWord_getLsbD]; interval_cases k <;> rfl
@[simp] theorem partition_iWord_rs : (partition (iWord op rs rt imm)).rs = rs :=
  extractLsb'_eq_of_bits _ 21 rs fun k hk => by rw [iWord_getLsbD]; interval_cases k <;> rfl
@[simp] theorem partition_iWord_rt : (partition (iWord op rs rt imm)).rt = rt :=
  extractLsb'_eq_of_bits _ 16 rt fun k hk => by rw [iWord_getLsbD]; interval_cases k <;> rfl
@[simp] theorem partition_iWord_imm : (partition (iWord op rs rt imm)).imm = imm :=
  extractLsb'_eq_of_bits _ 0 imm fun k hk => by rw [iWord_getLsbD]; interval_cases k <;> rfl

@[simp] theorem partition_jWord_op : (partition (jWord op jt)).op = op :=
  extractLsb'_eq_of_bits _ 26 op fun k hk => by rw [jWord_getLsbD]; interval_cases k <;> rfl
@[simp] theorem partition_jWord_jt : (partition (jWord op jt)).jt = jt :=
  extractLsb'_eq_of_bits _ 0 jt fun k hk => by rw [jWord_getLsbD]; interval_cases k <;> rfl

/-- What well-formed encoding numbers give (R6). -/
theorem EncodingParams.wf_iff (p : EncodingParams) :
    p.wf = true ↔ p.opcodes.Nodup ∧ p.opRtype = 0x00#6 ∧ p.opAddi = 0x08#6 ∧ 0x3F#6 ∉ p.opcodes ∧
      p.functs.Nodup ∧ 0x00#6 ∉ p.functs := by
  simp only [EncodingParams.wf, EncodingParams.opcodesOK, EncodingParams.functsOK, Bool.and_eq_true, decide_eq_true_eq,
    and_assoc]

end Sys2Proof
end

