-- ==== Sys2Proof/Laws/Memory.lean ====
section
/-! SUPPORT. The laws of memory: read after write, and that every memory operation keeps the canonical form. -/

namespace Sys2Proof.Machine

theorem Memory.word?_setWord (m : Memory) (i j : Nat) (v : Word) :
    Memory.word? (Memory.setWord m i v) j = if i = j then some v else Memory.word? m j := by
  induction m with
  | nil => rfl
  | cons c m ih =>
    obtain ⟨k, u⟩ := c
    simp only [Memory.setWord]
    split
    · rfl
    · split
      · subst_vars; by_cases h : k = j <;> simp [Memory.word?, h]
      · by_cases h : k = j
        · have : i ≠ j := by omega
          simp [Memory.word?, h, this]
        · simp [Memory.word?, h, ih]

/-- Everything a memory write does to a memory read. -/
theorem Memory.word_setWord (m : Memory) (i j : Nat) (v : Word) :
    Memory.word (Memory.setWord m i v) j = if i = j then v else Memory.word m j := by
  unfold Memory.word
  rw [Memory.word?_setWord]
  by_cases h : i = j <;> simp [h]

theorem Memory.wfFrom_cons (lo k : Nat) (u : Word) (m : Memory) :
    Memory.wfFrom lo ((k, u) :: m) = true ↔ lo ≤ k ∧ k < Config.memWords ∧ Memory.wfFrom (k + 1) m = true := by
  simp [Memory.wfFrom, and_assoc]

theorem Memory.wfFrom_setWord (m : Memory) (lo i : Nat) (v : Word) (hm : Memory.wfFrom lo m = true) (hlo : lo ≤ i)
    (hi : i < Config.memWords) : Memory.wfFrom lo (Memory.setWord m i v) = true := by
  induction m generalizing lo with
  | nil => exact (Memory.wfFrom_cons _ _ _ _).2 ⟨hlo, hi, rfl⟩
  | cons c m ih =>
    obtain ⟨k, u⟩ := c
    obtain ⟨h1, h2, h3⟩ := (Memory.wfFrom_cons _ _ _ _).1 hm
    simp only [Memory.setWord]
    split
    · exact (Memory.wfFrom_cons _ _ _ _).2 ⟨hlo, hi, (Memory.wfFrom_cons _ _ _ _).2 ⟨by omega, h2, h3⟩⟩
    · split
      · subst_vars; exact (Memory.wfFrom_cons _ _ _ _).2 ⟨hlo, hi, h3⟩
      · exact (Memory.wfFrom_cons _ _ _ _).2 ⟨h1, h2, ih (k + 1) h3 (by omega)⟩

/-- A memory write at an existing index keeps the canonical form. -/
theorem Memory.wf_setWord (m : Memory) (i : Nat) (v : Word) (hm : Memory.wf m = true) (hi : i < Config.memWords) :
    Memory.wf (Memory.setWord m i v) = true :=
  Memory.wfFrom_setWord m 0 i v hm (Nat.zero_le i) hi

theorem addrOK_index {a : Word} (h : addrOK a = true) : wordIndex a < Config.memWords := by
  simp only [addrOK, Bool.and_eq_true, decide_eq_true_eq] at h
  exact h.2

/-- A store to a valid address keeps the canonical form. -/
theorem wf_memWrite (m : Memory) (a v : Word) (hm : Memory.wf m = true) (ha : addrOK a = true) :
    Memory.wf (memWrite m a v) = true :=
  Memory.wf_setWord m _ v hm (addrOK_index ha)

theorem memRead_memWrite (m : Memory) (a b v : Word) :
    memRead (memWrite m a v) b = if wordIndex a = wordIndex b then v else memRead m b :=
  Memory.word_setWord m _ _ v

theorem Memory.word?_none_of_lt (m : Memory) (lo i : Nat) (hm : Memory.wfFrom lo m = true) (hi : i < lo) :
    Memory.word? m i = none := by
  induction m generalizing lo with
  | nil => rfl
  | cons c m ih =>
    obtain ⟨k, u⟩ := c
    obtain ⟨h1, _, h3⟩ := (Memory.wfFrom_cons _ _ _ _).1 hm
    have hk : k ≠ i := by omega
    simp [Memory.word?, hk, ih (k + 1) h3 (by omega)]

/-- The memory after reset is canonical. -/
theorem wf_reset_mem : Memory.wf State.reset.mem = true := rfl

end Sys2Proof.Machine
end

