-- ==== Sys2Proof/Laws/State.lean ====
section
/-! SUPPORT. One lemma per field per update of the state. -/

namespace Sys2Proof.Machine

variable (s : State) (i : RegIdx) (a v t : Word)

@[simp] theorem State.writeReg_regs : (s.writeReg i v).regs = RegFile.write s.regs i v := rfl
@[simp] theorem State.writeReg_mem : (s.writeReg i v).mem = s.mem := rfl
@[simp] theorem State.writeReg_pc : (s.writeReg i v).pc = s.pc := rfl

@[simp] theorem State.store_regs : (s.store a v).regs = s.regs := rfl
@[simp] theorem State.store_mem : (s.store a v).mem = memWrite s.mem a v := rfl
@[simp] theorem State.store_pc : (s.store a v).pc = s.pc := rfl

@[simp] theorem State.setPc_regs : (s.setPc t).regs = s.regs := rfl
@[simp] theorem State.setPc_mem : (s.setPc t).mem = s.mem := rfl
@[simp] theorem State.setPc_pc : (s.setPc t).pc = t := rfl

@[simp] theorem State.advance_regs : s.advance.regs = s.regs := rfl
@[simp] theorem State.advance_mem : s.advance.mem = s.mem := rfl
@[simp] theorem State.advance_pc : s.advance.pc = pcPlus4 s.pc := rfl

@[simp] theorem State.readReg_setPc : (s.setPc t).readReg i = s.readReg i := rfl
@[simp] theorem State.readReg_advance : s.advance.readReg i = s.readReg i := rfl
@[simp] theorem State.readReg_store : (s.store a v).readReg i = s.readReg i := rfl

end Sys2Proof.Machine
end

