-- ==== Sys2Proof/Laws/Registers.lean ====
section
/-! SUPPORT. The laws of the register file: register 0 (R22), read after write. -/

namespace Sys2Proof.Machine

theorem RegFile.read_zero (x : RegFile) : RegFile.read x 0#5 = 0#32 := rfl

theorem RegFile.write_zero (x : RegFile) (v : Word) : RegFile.write x 0#5 v = x := rfl

/-- Everything a register write does to a register read. -/
theorem RegFile.read_write (x : RegFile) (i j : RegIdx) (v : Word) :
    RegFile.read (RegFile.write x i v) j = if j = i ∧ i ≠ 0#5 then v else RegFile.read x j := by
  unfold RegFile.read RegFile.write
  by_cases hi : i = 0#5
  · simp [hi]
  · by_cases hj : j = 0#5
    · have : ¬ 0#5 = i := fun h => hi h.symm
      simp [hj, this]
    · by_cases hij : j = i
      · subst hij; simp [hj]
      · have hne : i.toNat ≠ j.toNat := fun h => hij (BitVec.eq_of_toNat_eq h.symm)
        simp [hi, hj, hij, Vector.getElem_set_ne, hne]

theorem RegFile.write_slot_zero (x : RegFile) (i : RegIdx) (v : Word) : (RegFile.write x i v)[0] = x[0] := by
  unfold RegFile.write
  by_cases hi : i = 0#5
  · simp [hi]
  · have hne : i.toNat ≠ 0 := fun h => hi (BitVec.eq_of_toNat_eq (by simpa using h))
    simp [hi, hne]

@[simp] theorem State.readReg_zero (s : State) : s.readReg 0#5 = 0#32 := rfl

theorem State.readReg_writeReg (s : State) (i j : RegIdx) (v : Word) :
    (s.writeReg i v).readReg j = if j = i ∧ i ≠ 0#5 then v else s.readReg j :=
  RegFile.read_write s.regs i j v

theorem State.writeReg_zero (s : State) (v : Word) : s.writeReg 0#5 v = s := rfl

end Sys2Proof.Machine
end

