-- ==== Sys2Proof/Laws/Exec.lean ====
section
/-! SUPPORT. For each shared operation of the meanings, and for the step, one lemma that says everything it can do. -/

namespace Sys2Proof.Machine

/-- An R-type instruction completes, writes its destination and advances. -/
theorem aluRegReg_next (sel : AluSel) (rd rs rt : RegIdx) (s : State) :
    aluRegReg sel rd rs rt s = .next (s.writeReg rd (aluResult sel (s.readReg rs) (s.readReg rt))).advance := rfl

/-- An I-type ALU instruction completes, writes its destination and advances. -/
theorem aluRegImm_next (sel : AluSel) (rt rs : RegIdx) (imm : Imm16) (s : State) :
    aluRegImm sel rt rs imm s = .next (s.writeReg rt (aluResult sel (s.readReg rs) (signExtender imm))).advance := rfl

/-- What lw can do. -/
theorem execLw_cases (rt rs : RegIdx) (imm : Imm16) (s : State) :
    (addrOK (effectiveAddress (s.readReg rs) imm) = true ∧
      execLw rt rs imm s = .next (s.writeReg rt (s.load (effectiveAddress (s.readReg rs) imm))).advance) ∨
    (addrOK (effectiveAddress (s.readReg rs) imm) = false ∧ execLw rt rs imm s = .fault .dataAddr) := by
  unfold execLw
  cases h : addrOK (effectiveAddress (s.readReg rs) imm) <;> simp [raiseHalt]

/-- What sw can do. -/
theorem execSw_cases (rt rs : RegIdx) (imm : Imm16) (s : State) :
    (addrOK (effectiveAddress (s.readReg rs) imm) = true ∧
      execSw rt rs imm s = .next (s.store (effectiveAddress (s.readReg rs) imm) (s.readReg rt)).advance) ∨
    (addrOK (effectiveAddress (s.readReg rs) imm) = false ∧ execSw rt rs imm s = .fault .dataAddr) := by
  unfold execSw
  cases h : addrOK (effectiveAddress (s.readReg rs) imm) <;> simp [raiseHalt]

/-- The zero flag of a subtraction says that the operands are equal. -/
theorem alu_sub_zero (a b : Word) : (alu .sub a b).2 = decide (a = b) := by
  simp only [alu, aluResult, zeroFlag]
  by_cases h : a = b
  · simp [h]
  · have : a - b ≠ 0#32 := fun h0 => h (by simpa using BitVec.sub_eq_iff_eq_add.mp h0)
    simp [h, this]

/-- What beq can do. -/
theorem execBeq_cases (rs rt : RegIdx) (imm : Imm16) (s : State) :
    (s.readReg rs = s.readReg rt ∧ execBeq rs rt imm s = .next (s.setPc (branchTarget s.pc (signExtender imm)))) ∨
    (s.readReg rs ≠ s.readReg rt ∧ execBeq rs rt imm s = .next s.advance) := by
  unfold execBeq
  rw [alu_sub_zero]
  by_cases h : s.readReg rs = s.readReg rt <;> simp [h]

/-- What a fetch can do. -/
theorem fetchUnit_cases (pc : Word) (m : Memory) :
    (addrOK pc = true ∧ fetchUnit pc m = .ok (memRead m pc)) ∨
    (addrOK pc = false ∧ fetchUnit pc m = .error .fetchAddr) := by
  unfold fetchUnit
  cases h : addrOK pc <;> simp

/-- What a step can do: it fails to fetch, or it fetches a word and then executes it, or halts on it. -/
theorem stepWith_cases (p : EncodingParams) (s : State) :
    (addrOK s.pc = false ∧ stepWith p s = .fault .fetchAddr) ∨
    (addrOK s.pc = true ∧ decodeWith p (memRead s.mem s.pc) = .illegalOpcode ∧ stepWith p s = .fault .opcode) ∨
    (addrOK s.pc = true ∧ decodeWith p (memRead s.mem s.pc) = .illegalFunct ∧ stepWith p s = .fault .funct) ∨
    (addrOK s.pc = true ∧ ∃ i, decodeWith p (memRead s.mem s.pc) = .instr i ∧ stepWith p s = exec i s) := by
  unfold stepWith
  obtain ⟨h, hf⟩ | ⟨h, hf⟩ := fetchUnit_cases s.pc s.mem
  · rw [hf]
    cases hd : decodeWith p (memRead s.mem s.pc) <;> simp [h, hd, raiseHalt]
  · simp [h, hf, raiseHalt]

end Sys2Proof.Machine
end

