-- ==== Sys2Proof/Laws/PerInstr.lean ====
section
/-! SUPPORT. Per-instruction laws. Family `TableRow`: the encoder's word of every instruction is a word of its row of
spec/opcode_table.json, whatever its operands are. -/

namespace Sys2Proof

/-- The opcode and function-code bits of an R-format word. -/
theorem rWord_masked (op : Op6) (rs rt rd : RegIdx) (fn : Op6) :
    rWord op rs rt rd fn &&& 0xFC00003F#32 = rWord op 0#5 0#5 0#5 fn := by
  apply BitVec.eq_of_getLsbD_eq
  intro k hk
  rw [BitVec.getLsbD_and, rWord_getLsbD, rWord_getLsbD]
  interval_cases k <;> simp

/-- The opcode bits of an I-format word. -/
theorem iWord_masked (op : Op6) (rs rt : RegIdx) (imm : Imm16) :
    iWord op rs rt imm &&& 0xFC000000#32 = iWord op 0#5 0#5 0#16 := by
  apply BitVec.eq_of_getLsbD_eq
  intro k hk
  rw [BitVec.getLsbD_and, iWord_getLsbD, iWord_getLsbD]
  interval_cases k <;> simp

/-- The opcode bits of a J-format word. -/
theorem jWord_masked (op : Op6) (jt : Target26) : jWord op jt &&& 0xFC000000#32 = jWord op 0#26 := by
  apply BitVec.eq_of_getLsbD_eq
  intro k hk
  rw [BitVec.getLsbD_and, jWord_getLsbD, jWord_getLsbD]
  interval_cases k <;> simp

/-- The word of `i` is a word of its opcode-table row. -/
def Laws.TableRow.Statement (i : Instr) : Prop :=
  encode i &&& i.tableMask = i.tableMatch

theorem Laws.TableRow.add (rd rs rt : RegIdx) : Laws.TableRow.Statement (.add rd rs rt) := rWord_masked _ _ _ _ _
theorem Laws.TableRow.sub (rd rs rt : RegIdx) : Laws.TableRow.Statement (.sub rd rs rt) := rWord_masked _ _ _ _ _
theorem Laws.TableRow.and (rd rs rt : RegIdx) : Laws.TableRow.Statement (.and rd rs rt) := rWord_masked _ _ _ _ _
theorem Laws.TableRow.or (rd rs rt : RegIdx) : Laws.TableRow.Statement (.or rd rs rt) := rWord_masked _ _ _ _ _
theorem Laws.TableRow.slt (rd rs rt : RegIdx) : Laws.TableRow.Statement (.slt rd rs rt) := rWord_masked _ _ _ _ _
theorem Laws.TableRow.sltu (rd rs rt : RegIdx) : Laws.TableRow.Statement (.sltu rd rs rt) := rWord_masked _ _ _ _ _
theorem Laws.TableRow.addi (rt rs : RegIdx) (imm : Imm16) : Laws.TableRow.Statement (.addi rt rs imm) :=
  iWord_masked _ _ _ _
theorem Laws.TableRow.slti (rt rs : RegIdx) (imm : Imm16) : Laws.TableRow.Statement (.slti rt rs imm) :=
  iWord_masked _ _ _ _
theorem Laws.TableRow.sltiu (rt rs : RegIdx) (imm : Imm16) : Laws.TableRow.Statement (.sltiu rt rs imm) :=
  iWord_masked _ _ _ _
theorem Laws.TableRow.andi (rt rs : RegIdx) (imm : Imm16) : Laws.TableRow.Statement (.andi rt rs imm) :=
  iWord_masked _ _ _ _
theorem Laws.TableRow.ori (rt rs : RegIdx) (imm : Imm16) : Laws.TableRow.Statement (.ori rt rs imm) :=
  iWord_masked _ _ _ _
theorem Laws.TableRow.lui (rt : RegIdx) (imm : Imm16) : Laws.TableRow.Statement (.lui rt imm) := iWord_masked _ _ _ _
theorem Laws.TableRow.lw (rt rs : RegIdx) (imm : Imm16) : Laws.TableRow.Statement (.lw rt rs imm) := iWord_masked _ _ _ _
theorem Laws.TableRow.sw (rt rs : RegIdx) (imm : Imm16) : Laws.TableRow.Statement (.sw rt rs imm) := iWord_masked _ _ _ _
theorem Laws.TableRow.beq (rs rt : RegIdx) (imm : Imm16) : Laws.TableRow.Statement (.beq rs rt imm) :=
  iWord_masked _ _ _ _
theorem Laws.TableRow.j (jt : Target26) : Laws.TableRow.Statement (.j jt) := jWord_masked _ _

end Sys2Proof
end

