-- ==== Sys2Proof/Laws/Run.lean ====
section
/-! SUPPORT. The steps of a run, and the memories a program is loaded into. -/

namespace Sys2Proof.Machine

/-- A run whose first step completes is the rest of the run from the next state. -/
theorem run_succ_next (n : Nat) {s s' : State} (h : step s = .next s') :
    Sys2Proof.core.run (n + 1) s = Sys2Proof.core.run n s' := by
  have h' : Sys2Proof.core.step s = .next s' := h
  simp only [Host.Core.run, h']

/-- A run whose first step faults ends there. -/
theorem run_succ_fault (n : Nat) {s : State} {c : Fault} (h : step s = .fault c) :
    Sys2Proof.core.run (n + 1) s = .fault c := by
  have h' : Sys2Proof.core.step s = .fault c := h
  simp only [Host.Core.run, h']

/-- An image of at most 16384 words is a canonical memory. -/
theorem wfFrom_imageFrom (i : Nat) (vs : List Word) (h : i + vs.length ≤ Config.memWords) :
    Memory.wfFrom i (imageFrom i vs) = true := by
  induction vs generalizing i with
  | nil => rfl
  | cons v vs ih =>
    rw [List.length_cons] at h
    exact (Memory.wfFrom_cons _ _ _ _).2 ⟨Nat.le_refl i, by omega, ih (i + 1) (by omega)⟩

/-- Placing a word where the next step fetches keeps the canonical form. -/
theorem wf_withFetchWord (s : State) (nbits w : Nat) (h : Memory.wf s.mem = true) :
    Memory.wf (s.withFetchWord nbits w).mem = true := by
  unfold State.withFetchWord
  by_cases ha : addrOK s.pc = true
  · rw [if_pos ha]; exact wf_memWrite _ _ _ h ha
  · rw [if_neg ha]; exact h

end Sys2Proof.Machine
end

