-- ==== Sys2Proof/Tests/Slice0.lean ====
section
/-! SUPPORT. Tests: the well-formedness smoke, decoding of words written out from the spec, one step of every instruction
with results from spec/95_test_vectors.md or calculated by hand from the rules, and a witness for the hypotheses of every
statement that has some. -/

namespace Sys2Proof.Tests
open Sys2Proof.Machine

/-! ### Well-formedness: one ill-formed term for each check -/

theorem test_wf_default : Config.encoding.wf = true := by decide
theorem test_wf_refuses_equal_opcodes : { Config.encoding with opJ := 0x04#6 }.wf = false := by decide
theorem test_wf_refuses_rtype_not_00 : { Config.encoding with opRtype := 0x01#6 }.wf = false := by decide
theorem test_wf_refuses_addi_not_08 : { Config.encoding with opAddi := 0x09#6 }.wf = false := by decide
theorem test_wf_refuses_opcode_3F : { Config.encoding with opSw := 0x3F#6 }.wf = false := by decide
theorem test_wf_refuses_equal_functs : { Config.encoding with fnSub := 0x20#6 }.wf = false := by decide
theorem test_wf_refuses_funct_00 : { Config.encoding with fnAnd := 0x00#6 }.wf = false := by decide

/-! ### Decoding, one word for each constructor (41_rtype_alu.md to 44_control_transfer.md, 95_test_vectors.md 2.7) -/

theorem test_decode_add : decode 0x00221820#32 = .instr (.add 3#5 1#5 2#5) := by decide
theorem test_decode_sub : decode 0x00221822#32 = .instr (.sub 3#5 1#5 2#5) := by decide
theorem test_decode_and : decode 0x00221824#32 = .instr (.and 3#5 1#5 2#5) := by decide
theorem test_decode_or : decode 0x00221825#32 = .instr (.or 3#5 1#5 2#5) := by decide
theorem test_decode_slt : decode 0x0022182A#32 = .instr (.slt 3#5 1#5 2#5) := by decide
theorem test_decode_sltu : decode 0x0022182B#32 = .instr (.sltu 3#5 1#5 2#5) := by decide
theorem test_decode_addi : decode 0x20228000#32 = .instr (.addi 2#5 1#5 0x8000#16) := by decide
theorem test_decode_slti : decode 0x28228000#32 = .instr (.slti 2#5 1#5 0x8000#16) := by decide
theorem test_decode_sltiu : decode 0x2C228000#32 = .instr (.sltiu 2#5 1#5 0x8000#16) := by decide
theorem test_decode_andi : decode 0x30228000#32 = .instr (.andi 2#5 1#5 0x8000#16) := by decide
theorem test_decode_ori : decode 0x34228000#32 = .instr (.ori 2#5 1#5 0x8000#16) := by decide
theorem test_decode_lui : decode 0x3C228000#32 = .instr (.lui 2#5 0x8000#16) := by decide
theorem test_decode_lw : decode 0x8C22FFFC#32 = .instr (.lw 2#5 1#5 0xFFFC#16) := by decide
theorem test_decode_sw : decode 0xAC220008#32 = .instr (.sw 2#5 1#5 0x0008#16) := by decide
theorem test_decode_beq : decode 0x10220003#32 = .instr (.beq 1#5 2#5 0x0003#16) := by decide
theorem test_decode_j : decode 0x0BFFFFFF#32 = .instr (.j 0x3FFFFFF#26) := by decide

/-- The two words of R95, and the opcode and function-code neighbours of 95_test_vectors.md 2.3. -/
theorem test_decode_illegal :
    decode 0x00000000#32 = .illegalFunct ∧ decode 0xFFFFFFFF#32 = .illegalOpcode ∧
    decode 0x00221821#32 = .illegalFunct ∧ decode 0x14220003#32 = .illegalOpcode := by decide

/-- The ignored bits of 95_test_vectors.md 2.6. -/
theorem test_decode_ignored_bits :
    decode 0x00221FE0#32 = .instr (.add 3#5 1#5 2#5) ∧ decode 0x002219EB#32 = .instr (.sltu 3#5 1#5 2#5) ∧
    decode 0x3FE21234#32 = .instr (.lui 2#5 0x1234#16) := by decide

/-- The encoder on R171's, R191's and R202's examples. -/
theorem test_encode :
    encode (.add 3#5 1#5 2#5) = 0x00221820#32 ∧ encode (.lw 2#5 1#5 0x0008#16) = 0x8C220008#32 ∧
    encode (.j 0x0004000#26) = 0x08004000#32 := by decide

/-- The fields of 95_test_vectors.md 2.2. -/
theorem test_partition :
    partition 0x00221820#32 = ⟨0x00#6, 1#5, 2#5, 3#5, 0x20#6, 0x1820#16, 0x0221820#26⟩ := by decide

theorem test_decodeTableWord :
    decodeTableWord 32 0xAC000000 = some (.sw 0#5 0#5 0x0000#16) ∧ decodeTableWord 32 0xFC000000 = none := by decide

/-! ### One step of every instruction -/

/-- A state with one instruction word at the pc, and values in registers 1 and 2. -/
def load (pc w x1 x2 : Word) : State :=
  { (State.reset.writeReg 1#5 x1).writeReg 2#5 x2 with pc := pc, mem := memWrite [] pc w }

/-- The same, with one more word of memory. -/
def loadWith (pc w x1 x2 a v : Word) : State :=
  { load pc w x1 x2 with mem := memWrite (memWrite [] pc w) a v }

/-- Register `r` and the pc after one step, none if it does not complete. -/
def after (s : State) (r : RegIdx) : Option (Word × Word) :=
  match step s with
  | .next t => some (t.readReg r, t.pc)
  | _ => none

/-- The memory word at `a` and the pc after one step. -/
def afterMem (s : State) (a : Word) : Option (Word × Word) :=
  match step s with
  | .next t => some (t.load a, t.pc)
  | _ => none

/-- The cause of Halt of one step. -/
def haltOf (s : State) : Option Fault :=
  match step s with
  | .fault c => some c
  | _ => none

-- 95_test_vectors.md 2.6, start pc 0x100
theorem test_add_wraps : after (load 0x100#32 0x00221820#32 0x7FFFFFFF#32 1#32) 3#5 = some (0x80000000#32, 0x104#32) := by
  decide
theorem test_add_aliased : after (load 0#32 0x00210820#32 0x80000001#32 0#32) 1#5 = some (2#32, 4#32) := by decide
theorem test_sub_order : after (load 0x100#32 0x00221822#32 0x80000000#32 1#32) 3#5 = some (0x7FFFFFFF#32, 0x104#32) := by
  decide
theorem test_and : after (load 0x100#32 0x00221824#32 0x12345678#32 0xFF00FF00#32) 3#5 = some (0x12005600#32, 0x104#32) := by
  decide
theorem test_or : after (load 0x100#32 0x00221825#32 0x12345678#32 0xFF00FF00#32) 3#5 = some (0xFF34FF78#32, 0x104#32) := by
  decide
theorem test_slt_overflowing : after (load 0x100#32 0x0022182A#32 0x80000000#32 1#32) 3#5 = some (1#32, 0x104#32) := by decide
theorem test_sltu : after (load 0x100#32 0x0022182B#32 0x7FFFFFFF#32 0xFFFFFFFF#32) 3#5 = some (1#32, 0x104#32) := by decide

-- S3: a write to register 0 is discarded
theorem test_write_zero_discarded : after (load 0#32 0x00220020#32 0xFFFFFFFF#32 2#32) 0#5 = some (0#32, 4#32) := by decide

-- S6 and 95_test_vectors.md 2.7
theorem test_addi_source_example : after (load 0#32 0x20010005#32 0#32 0#32) 1#5 = some (5#32, 4#32) := by decide
theorem test_addi_negative : after (load 0#32 0x2022FFFF#32 0x80000000#32 0#32) 2#5 = some (0x7FFFFFFF#32, 4#32) := by decide
theorem test_slti : after (load 0#32 0x28228000#32 0xFFFF7FFF#32 0#32) 2#5 = some (1#32, 4#32) := by decide
theorem test_sltiu_extends : after (load 0#32 0x2C22FFFF#32 5#32 0#32) 2#5 = some (1#32, 4#32) := by decide
theorem test_andi_extends : after (load 0#32 0x3022FF00#32 0x12345678#32 0#32) 2#5 = some (0x12345600#32, 4#32) := by decide
theorem test_ori_extends : after (load 0#32 0x34228000#32 0#32 0#32) 2#5 = some (0xFFFF8000#32, 4#32) := by decide
theorem test_lui : after (load 0#32 0x3C018000#32 7#32 0#32) 1#5 = some (0x80000000#32, 4#32) := by decide

-- 95_test_vectors.md 2.8
theorem test_lw_wrapping_address :
    after (loadWith 0x200#32 0x8C22FFFC#32 0x10000#32 0xCAFEF00D#32 0xFFFC#32 0x11223344#32) 2#5
      = some (0x11223344#32, 0x204#32) := by decide
theorem test_lw_misaligned_halts : haltOf (load 0x200#32 0x8C220001#32 0xFFFE#32 0#32) = some .dataAddr := by decide
theorem test_sw : afterMem (load 0x200#32 0xAC220008#32 0x100#32 0xCAFEF00D#32) 0x108#32
    = some (0xCAFEF00D#32, 0x204#32) := by decide
theorem test_sw_own_address : afterMem (load 0x200#32 0xAC220000#32 0x200#32 0#32) 0x200#32 = some (0#32, 0x204#32) := by
  decide

-- 95_test_vectors.md 2.9 and 2.10
theorem test_beq_taken_backward : after (load 0x100#32 0x1022FFC0#32 7#32 7#32) 1#5 = some (7#32, 4#32) := by decide
theorem test_beq_not_taken : after (load 8#32 0x10220003#32 7#32 8#32) 1#5 = some (7#32, 0xC#32) := by decide
theorem test_j : after (load 0x14#32 0x08000002#32 0#32 0#32) 1#5 = some (0#32, 8#32) := by decide
theorem test_j_out_of_range_completes : after (load 0x20#32 0x08004000#32 0#32 0#32) 1#5 = some (0#32, 0x10000#32) := by
  decide

-- 95_test_vectors.md 2.1, 2.3 and S9
theorem test_fetch_halts : haltOf { State.reset with pc := 0x10000#32 } = some .fetchAddr ∧
    haltOf { State.reset with pc := 2#32 } = some .fetchAddr := by decide
theorem test_illegal_words_halt : haltOf (load 0xFFFC#32 0#32 0#32 0#32) = some .funct ∧
    haltOf (load 0#32 0x40000000#32 0#32 0#32) = some .opcode := by decide
theorem test_memory_unit_both_flags :
    (memUnit [(16, 0x55555555#32)] true true 0x40#32 0xAAAAAAAA#32).toOption = some ([(16, 0xAAAAAAAA#32)], 0xAAAAAAAA#32) := by
  decide
theorem test_datapath_halting_load :
    cycle (load 8#32 0x8C220001#32 0xFFFE#32 0x77777777#32)
      = ⟨load 8#32 0x8C220001#32 0xFFFE#32 0x77777777#32, some .dataAddr⟩ := by decide
theorem test_alu_nota : alu .nota 0xFFFFFFFF#32 5#32 = (0#32, true) := by decide
theorem test_alu_unrecognised : alu (AluSel.ofPort 9#4) 0x12345678#32 0xFF00FF00#32 = (0#32, true) := by decide
theorem test_aluOp_ports : AluOp.ofPort 8#4 = .useFunct ∧ AluOp.ofPort 6#4 = .direct .shl16 := by decide
theorem test_withFetchWord : after (State.reset.withFetchWord 32 0x20010005) 1#5 = some (5#32, 4#32) := by decide
theorem test_boot : after (boot (imageFrom 0 [0x20017FFF#32, 0x20217FFF#32])) 1#5 = some (0x7FFF#32, 4#32) := by decide

/-! ### Witnesses: the hypotheses of each statement are met together -/

/-- Admissible numbers other than the defaults. -/
def otherNumbers : EncodingParams :=
  { Config.encoding with opJ := 0x3E#6, opSw := 0x01#6, fnAdd := 0x01#6, fnSltu := 0x3F#6 }

theorem witness_DecodeOfEncode : Config.encoding.wf = true ∧ otherNumbers.wf = true := by decide
theorem witness_EncodeOfDecode : decodeWith Config.encoding 0x00221FE0#32 = .instr (.add 3#5 1#5 2#5) := by decide
theorem witness_IgnoredBitsDoNotMatter : Config.encoding.wf = true ∧
    ((partition 0x00221820#32).op = Config.encoding.opRtype ∧
      ∀ k < 32, k < 6 ∨ 10 < k → (0x00221FE0#32).getLsbD k = (0x00221820#32).getLsbD k) ∧
    ((partition 0x3C021234#32).op = Config.encoding.opLui ∧
      ∀ k < 32, k < 21 ∨ 25 < k → (0x3FE21234#32).getLsbD k = (0x3C021234#32).getLsbD k) := by decide
theorem witness_TableRowsDecode :
    0x03FFFFE0#32 &&& 0xFC00003F#32 = 0x00000020#32 ∧ 0x03FFFFE2#32 &&& 0xFC00003F#32 = 0x00000022#32 ∧
    0x03FFFFE4#32 &&& 0xFC00003F#32 = 0x00000024#32 ∧ 0x03FFFFE5#32 &&& 0xFC00003F#32 = 0x00000025#32 ∧
    0x03FFFFEA#32 &&& 0xFC00003F#32 = 0x0000002A#32 ∧ 0x03FFFFEB#32 &&& 0xFC00003F#32 = 0x0000002B#32 ∧
    0x23FFFFFF#32 &&& 0xFC000000#32 = 0x20000000#32 ∧ 0x2BFFFFFF#32 &&& 0xFC000000#32 = 0x28000000#32 ∧
    0x2FFFFFFF#32 &&& 0xFC000000#32 = 0x2C000000#32 ∧ 0x33FFFFFF#32 &&& 0xFC000000#32 = 0x30000000#32 ∧
    0x37FFFFFF#32 &&& 0xFC000000#32 = 0x34000000#32 ∧ 0x3FFFFFFF#32 &&& 0xFC000000#32 = 0x3C000000#32 ∧
    0x8FFFFFFF#32 &&& 0xFC000000#32 = 0x8C000000#32 ∧ 0xAFFFFFFF#32 &&& 0xFC000000#32 = 0xAC000000#32 ∧
    0x13FFFFFF#32 &&& 0xFC000000#32 = 0x10000000#32 ∧ 0x0BFFFFFF#32 &&& 0xFC000000#32 = 0x08000000#32 := by decide
theorem witness_UnrecognisedOpcodeHalts : Config.encoding.wf = true ∧ 0x3F#6 ∉ Config.encoding.opcodes ∧
    addrOK (load 0xFFFC#32 0xFFFFFFFF#32 0#32 0#32).pc = true ∧
    (partition (load 0xFFFC#32 0xFFFFFFFF#32 0#32 0#32).fetched).op ∉ Config.encoding.opcodes := by decide
theorem witness_UnrecognisedFunctHalts : Config.encoding.wf = true ∧ 0x00#6 ∉ Config.encoding.functs ∧
    (addrOK (load 0xFFFC#32 0x3F#32 0#32 0#32).pc = true ∧
      (partition (load 0xFFFC#32 0x3F#32 0#32 0#32).fetched).op = Config.encoding.opRtype ∧
      (partition (load 0xFFFC#32 0x3F#32 0#32 0#32).fetched).funct ∉ Config.encoding.functs) ∧
    (partition (load 0#32 0x08000000#32 0#32 0#32).fetched).op ≠ Config.encoding.opRtype := by decide
theorem witness_AllZeroAndAllOneWordsHalt : Config.encoding.wf = true ∧
    (addrOK (load 0xFFFC#32 0#32 0#32 0#32).pc = true ∧ (load 0xFFFC#32 0#32 0#32 0#32).fetched = 0#32) ∧
    (addrOK (load 0#32 0xFFFFFFFF#32 0#32 0#32).pc = true ∧
      (load 0#32 0xFFFFFFFF#32 0#32 0#32).fetched = 0xFFFFFFFF#32) := by decide
theorem witness_AddressValidity : (true || false) = true ∧ (false || true) = true := by decide
theorem witness_FetchUnitReadsOrHalts :
    ((0xFFFC#32).toNat % 4 = 0 ∧ (0xFFFC#32).toNat ≤ 0xFFFF ∧ (0xFFFC#32).toNat / 4 < 16384) ∧
    ¬ ((0x10000#32).toNat % 4 = 0 ∧ (0x10000#32).toNat ≤ 0xFFFF ∧ (0x10000#32).toNat / 4 < 16384) := by decide
theorem witness_ControlTable : otherNumbers.wf = true := by decide
theorem witness_SignExtension : (0x7FFF#16).getLsbD 15 = false ∧ (0x8000#16).getLsbD 15 = true := by decide
theorem witness_OperandAndSelectorResolution : otherNumbers.wf = true ∧ 0x20#6 ∉ otherNumbers.functs := by decide
theorem witness_ZeroFlagAndUnrecognisedSelector : 8 ≤ (8#4).toNat ∧ 8 ≤ (15#4).toNat ∧
    (decodeRom Config.encoding 0x0F#6).toOption = some ⟨.rt, false, false, .alu, .direct .shl16, false, .imm, true, false⟩ ∧
    (resolveSelector Config.encoding (.direct .shl16) 0#6).toOption = some .shl16 := by decide
theorem witness_MemoryUnitChecksFlaggedAccessesOnly : (true || true) = true ∧
    ((0xFFFC#32).toNat % 4 = 0 ∧ (0xFFFC#32).toNat ≤ 0xFFFF) ∧
    ¬ ((0xFFFF#32).toNat % 4 = 0 ∧ (0xFFFF#32).toNat ≤ 0xFFFF) ∧
    ¬ ((0x10000#32).toNat % 4 = 0 ∧ (0x10000#32).toNat ≤ 0xFFFF) := by decide
theorem witness_MemoryUnitWritesThenReads : addrOK 0xFFFC#32 = true := by decide
theorem witness_RegisterWritePort :
    (31#5 = (if RegDst.rd = .rd then 31#5 else 1#5) ∧ 5#32 = (if MemToReg.alu = .mem then 7#32 else 5#32) ∧ 31#5 ≠ 0#5 ∧
      30#5 ≠ 31#5) ∧
    0#5 = (if RegDst.rt = .rd then 31#5 else 0#5) ∧
    (cycleWith Config.encoding (load 0#32 0#32 0#32 0#32)).halt ≠ none := by decide
theorem witness_PcSequencer : (true && false) = false ∧ (false && true) = false := by decide

/-- lw and sw with the last valid address, the first one past it, and a misaligned one inside the range. -/
theorem witness_LwResult_and_SwResult :
    (0xFFFC = (effectiveAddress ((load 0#32 0#32 0xFFF8#32 0#32).readReg 1#5) 4#16).toNat ∧ 0xFFFC % 4 = 0 ∧
      0xFFFC ≤ 0xFFFF) ∧
    (0x10000 = (effectiveAddress ((load 0#32 0#32 0xFFFC#32 0#32).readReg 1#5) 4#16).toNat ∧
      ¬ (0x10000 % 4 = 0 ∧ 0x10000 ≤ 0xFFFF)) ∧
    (0xFFFF = (effectiveAddress ((load 0#32 0#32 0xFFFE#32 0#32).readReg 1#5) 1#16).toNat ∧
      ¬ (0xFFFF % 4 = 0 ∧ 0xFFFF ≤ 0xFFFF)) := by decide

theorem witness_StepRunsDecoded :
    (addrOK (load 0xFFFC#32 0x08000000#32 0#32 0#32).pc = true ∧
      decodeWith Config.encoding (load 0xFFFC#32 0x08000000#32 0#32 0#32).fetched = .instr (.j 0#26)) ∧
    (addrOK State.reset.pc = true ∧ decodeTableWord 32 0x20000000 = some (.addi 0#5 0#5 0#16)) := by decide
theorem witness_StepRefinesCycle : otherNumbers.wf = true := by decide
theorem witness_RTypeCycle : otherNumbers.wf = true ∧ addrOK 2#32 = false ∧
    (addrOK (load 0#32 0x00221801#32 3#32 4#32).pc = true ∧
      (partition (load 0#32 0x00221801#32 3#32 4#32).fetched).op = otherNumbers.opRtype ∧
      (partition (load 0#32 0x00221801#32 3#32 4#32).fetched).funct = otherNumbers.fnAdd) ∧
    (partition (load 0#32 0x00221820#32 3#32 4#32).fetched).funct ∉ otherNumbers.functs := by decide
theorem witness_ITypeCycle : Config.encoding.wf = true ∧ addrOK 0x10000#32 = false ∧
    addrOK (load 0#32 0x34228000#32 3#32 4#32).pc = true ∧
    (partition (load 0#32 0x34228000#32 3#32 4#32).fetched).op = Config.encoding.opOri := by decide
theorem witness_AddressingMode : Config.encoding.wf = true ∧
    (addrOK (load 0#32 0x8C220000#32 0xFFFC#32 0#32).pc = true ∧
      (partition (load 0#32 0x8C220000#32 0xFFFC#32 0#32).fetched).op = Config.encoding.opLw ∧
      (partition (load 0#32 0x8C220000#32 0xFFFC#32 0#32).fetched).rs = 1#5 ∧
      (partition (load 0#32 0x8C220000#32 0xFFFC#32 0#32).fetched).rt = 2#5 ∧
      addrOK (effectiveAddress ((load 0#32 0x8C220000#32 0xFFFC#32 0#32).readReg 1#5) 0#16) = true) ∧
    ((partition (load 0#32 0xAC220004#32 0xFFFC#32 0#32).fetched).op = Config.encoding.opSw ∧
      addrOK (effectiveAddress ((load 0#32 0xAC220004#32 0xFFFC#32 0#32).readReg 1#5) 4#16) = false) := by decide
theorem witness_HaltCauses : otherNumbers.wf = true ∧
    partition (load 0#32 0#32 0#32 0#32).fetched = ⟨0#6, 0#5, 0#5, 0#5, 0#6, 0#16, 0#26⟩ := by decide
theorem witness_HaltingCycleChangesNothing :
    (cycleWith Config.encoding (load 0#32 0#32 0#32 0#32)).halt = some .funct ∧
    haltPin (load 0#32 0#32 0#32 0#32) = true ∧ haltPin (load 0#32 0x20010005#32 0#32 0#32) = false := by decide
theorem witness_HaltPersists : haltPin { State.reset with pc := 0x10000#32 } = true := by decide

/-- A run of one jump, which ends with Halt(FETCH_ADDR) at 0x10000. -/
theorem witness_RunEndsOnce_and_RunNeverMisaligned :
    StateInv (load 0#32 0x08004000#32 0#32 0#32) ∧
    EndsAt 1 (load 0#32 0x08004000#32 0#32 0#32) { load 0#32 0x08004000#32 0#32 0#32 with pc := 0x10000#32 } .fetchAddr :=
  ⟨⟨by decide, by unfold State.zeroSlot; decide, by unfold State.pcAligned; decide⟩, rfl, rfl⟩
theorem witness_StepKeepsInv :
    StateInv (load 0#32 0xAC020100#32 0#32 9#32) ∧ ∃ t, stepWith Config.encoding (load 0#32 0xAC020100#32 0#32 9#32) = .next t :=
  ⟨⟨by decide, by unfold State.zeroSlot; decide, by unfold State.pcAligned; decide⟩, _, rfl⟩
theorem witness_ResetMeetsInv :
    Memory.wf (imageFrom 0 [0x20010005#32]) = true ∧ StateInv (load 0#32 0#32 5#32 9#32) :=
  ⟨by decide, ⟨by decide, by unfold State.zeroSlot; decide, by unfold State.pcAligned; decide⟩⟩
theorem witness_OnlyStoreWordChangesMemory :
    ∃ t, stepWith Config.encoding (loadWith 0#32 0xAC020100#32 0#32 9#32 0x100#32 8#32) = .next t ∧
      Memory.word t.mem 64 ≠ Memory.word (loadWith 0#32 0xAC020100#32 0#32 9#32 0x100#32 8#32).mem 64 :=
  ⟨_, rfl, by decide⟩
theorem witness_OnlyDestinationRegisterChanges :
    ∃ t, stepWith Config.encoding (load 0#32 0x20010005#32 0#32 0#32) = .next t ∧
      t.readReg 1#5 ≠ (load 0#32 0x20010005#32 0#32 0#32).readReg 1#5 :=
  ⟨_, rfl, by decide⟩

/-- Two states that differ in register 2 alone run an addi of register 1, and another pair halts. -/
theorem witness_StepReadsOnlyRsAndRt :
    ((load 0#32 0x20210005#32 1#32 2#32).mem = (load 0#32 0x20210005#32 1#32 3#32).mem ∧
      (load 0#32 0x20210005#32 1#32 2#32).readReg 1#5 = (load 0#32 0x20210005#32 1#32 3#32).readReg 1#5 ∧
      (partition (load 0#32 0x20210005#32 1#32 3#32).fetched).rs = 1#5 ∧
      (partition (load 0#32 0x20210005#32 1#32 3#32).fetched).rt = 1#5 ∧
      after (load 0#32 0x20210005#32 1#32 3#32) 1#5 = some (6#32, 4#32)) ∧
    haltOf (load 0#32 0#32 1#32 3#32) = some .funct := by decide
theorem witness_StoredWordIsFetched :
    decodeWith Config.encoding (load 0#32 0xAC020004#32 0#32 9#32).fetched = .instr (.sw 2#5 0#5 4#16) ∧
    4#32 = effectiveAddress ((load 0#32 0xAC020004#32 0#32 9#32).readReg 0#5) 4#16 ∧
    (∃ t, stepWith Config.encoding (load 0#32 0xAC020004#32 0#32 9#32) = .next t) ∧ addrOK 0#32 = true ∧ 0#32 ≠ 4#32 :=
  ⟨by decide, by decide, ⟨_, rfl⟩, by decide, by decide⟩
theorem witness_EqualMemoriesAreEqualLists :
    Memory.wf (memWrite (memWrite [] 4#32 1#32) 0#32 2#32) = true ∧
    Memory.wf (memWrite (memWrite [] 0#32 2#32) 4#32 1#32) = true ∧
    memWrite (memWrite [] 4#32 1#32) 0#32 2#32 = memWrite (memWrite [] 0#32 2#32) 4#32 1#32 := by decide
theorem witness_JumpOutOfRangeHaltsNextFetch : addrOK (load 0xFFFC#32 0x08003FFF#32 0#32 0#32).pc = true := by decide

end Sys2Proof.Tests
end

/-! ### The two descriptions of the machine agree (00_scope.md R12, 40_datapath_blocks.md R110)

After a successful fetch both descriptions look at the fields of one word: `step` runs what `decodeFields` makes of them, the
cycle runs stages 6 to 9 under the control vector of the opcode. Each row of the control table is followed through those
stages once, and every opcode is then matched with the instruction it decodes to. -/

namespace Sys2Proof.Machine

/-! ### The rows of the two tables

The rows of the control table (R115), the six immediate ALU instructions as one row that leaves the selector open. -/

/-- The row of the R-type instructions. -/
def ControlVector.rtype : ControlVector := ⟨.rd, false, false, .alu, .useFunct, false, .reg, true, false⟩

/-- The row of an immediate ALU instruction with selector `sel`. -/
def ControlVector.aluImm (sel : AluSel) : ControlVector :=
  ⟨.rt, false, false, .alu, .direct sel, false, .imm, true, false⟩

/-- The row of lw. -/
def ControlVector.lw : ControlVector := ⟨.rt, false, true, .mem, .direct .add, false, .imm, true, false⟩

/-- The row of sw. -/
def ControlVector.sw : ControlVector := ⟨.rt, false, false, .alu, .direct .add, true, .imm, false, false⟩

/-- The row of beq. -/
def ControlVector.beq : ControlVector := ⟨.rt, true, false, .alu, .direct .sub, false, .reg, false, false⟩

/-- The row of j. -/
def ControlVector.j : ControlVector := ⟨.rt, false, false, .alu, .direct .add, false, .reg, false, true⟩

/-- The control table at the supported opcodes (R115). Distinct opcode numbers keep a row from being hidden by an earlier one;
`Ne.symm` is there because the table tests the opcodes in another order than `EncodingParams.opcodes` lists them. -/
theorem decodeRom_rows {p : EncodingParams} (hp : p.opcodes.Nodup) :
    decodeRom p p.opRtype = .ok .rtype ∧ decodeRom p p.opAddi = .ok (.aluImm .add) ∧
    decodeRom p p.opSlti = .ok (.aluImm .slt) ∧ decodeRom p p.opSltiu = .ok (.aluImm .sltu) ∧
    decodeRom p p.opAndi = .ok (.aluImm .and) ∧ decodeRom p p.opOri = .ok (.aluImm .or) ∧
    decodeRom p p.opLui = .ok (.aluImm .shl16) ∧ decodeRom p p.opLw = .ok .lw ∧ decodeRom p p.opSw = .ok .sw ∧
    decodeRom p p.opBeq = .ok .beq ∧ decodeRom p p.opJ = .ok .j := by
  simp only [EncodingParams.opcodes, List.nodup_cons, List.mem_cons, not_or] at hp
  simp [decodeRom, hp, Ne.symm, ControlVector.rtype, ControlVector.aluImm, ControlVector.lw, ControlVector.sw,
    ControlVector.beq, ControlVector.j]

/-- An unsupported opcode has no row (R91). -/
theorem decodeRom_unsupported {p : EncodingParams} {op : Op6} (h : op ∉ p.opcodes) :
    decodeRom p op = .error .opcode := by
  simp only [EncodingParams.opcodes, List.mem_cons, not_or] at h
  simp [decodeRom, h]

/-- The decoder at the supported opcodes, in the order of `decodeRom_rows` (R89). -/
theorem decodeFields_rows {p : EncodingParams} (hp : p.opcodes.Nodup) (f : Fields) :
    (f.op = p.opRtype → decodeFields p f = decodeRtype p f) ∧
    (f.op = p.opAddi → decodeFields p f = .instr (.addi f.rt f.rs f.imm)) ∧
    (f.op = p.opSlti → decodeFields p f = .instr (.slti f.rt f.rs f.imm)) ∧
    (f.op = p.opSltiu → decodeFields p f = .instr (.sltiu f.rt f.rs f.imm)) ∧
    (f.op = p.opAndi → decodeFields p f = .instr (.andi f.rt f.rs f.imm)) ∧
    (f.op = p.opOri → decodeFields p f = .instr (.ori f.rt f.rs f.imm)) ∧
    (f.op = p.opLui → decodeFields p f = .instr (.lui f.rt f.imm)) ∧
    (f.op = p.opLw → decodeFields p f = .instr (.lw f.rt f.rs f.imm)) ∧
    (f.op = p.opSw → decodeFields p f = .instr (.sw f.rt f.rs f.imm)) ∧
    (f.op = p.opBeq → decodeFields p f = .instr (.beq f.rs f.rt f.imm)) ∧
    (f.op = p.opJ → decodeFields p f = .instr (.j f.jt)) := by
  simp only [EncodingParams.opcodes, List.nodup_cons, List.mem_cons, not_or] at hp
  and_intros <;> intro h <;> simp [decodeFields, h, hp, Ne.symm]

/-- An unsupported opcode is illegal (R91). -/
theorem decodeFields_unsupported {p : EncodingParams} {f : Fields} (h : f.op ∉ p.opcodes) :
    decodeFields p f = .illegalOpcode := by
  simp only [EncodingParams.opcodes, List.mem_cons, not_or] at h
  simp [decodeFields, h]

/-! ### What a cycle answers -/

/-- The answer of the stages: the state they commit, or the Halt they raise. -/
def stagesResult : Except Fault State → Result
  | .ok t        => .next t
  | .error cause => raiseHalt cause

@[simp] theorem stagesResult_ok (t : State) : stagesResult (.ok t) = .next t := rfl
@[simp] theorem stagesResult_error (cause : Fault) : stagesResult (.error cause) = raiseHalt cause := rfl

theorem cycleWith_result (p : EncodingParams) (s : State) : (cycleWith p s).result = stagesResult (stages p s) := by
  unfold cycleWith
  cases stages p s <;> rfl

/-- A cycle that cannot fetch raises Halt(FETCH_ADDR). -/
theorem stages_of_bad_pc (p : EncodingParams) {s : State} (h : addrOK s.pc = false) : stages p s = .error .fetchAddr := by
  simp [stages, fetchUnit, h]

/-- A cycle that can fetch runs stages 6 to 9 under the control vector of the fetched word, if it has one. -/
theorem stages_of_fetched (p : EncodingParams) {s : State} (h : addrOK s.pc = true) :
    stages p s = decodeRom p (partition s.fetched).op >>= executeStages p s (partition s.fetched) := by
  simp only [stages, fetchUnit, h, if_true, State.fetched]
  cases decodeRom p (partition (memRead s.mem s.pc)).op <;> rfl

/-- What a step makes of a decoded word. -/
def runDecoded (s : State) : DecodeResult → Result
  | .instr i       => exec i s
  | .illegalOpcode => raiseHalt .opcode
  | .illegalFunct  => raiseHalt .funct

theorem stepWith_of_bad_pc (p : EncodingParams) {s : State} (h : addrOK s.pc = false) :
    stepWith p s = raiseHalt .fetchAddr := by
  simp [stepWith, fetchUnit, h]

theorem stepWith_of_fetched (p : EncodingParams) {s : State} (h : addrOK s.pc = true) :
    stepWith p s = runDecoded s (decodeWith p s.fetched) := by
  simp only [stepWith, fetchUnit, h, if_true, State.fetched]
  cases decodeWith p (memRead s.mem s.pc) <;> rfl

/-! ### The memory unit (R126, R127) -/

section MemoryUnit
variable (m : Memory) {addr : Word} (wdata : Word)

theorem memUnit_read (h : addrOK addr = true) : memUnit m false true addr wdata = .ok (m, memRead m addr) := by
  simp [memUnit, h]

theorem memUnit_write (h : addrOK addr = true) : memUnit m true false addr wdata = .ok (memWrite m addr wdata, 0#32) := by
  simp [memUnit, h]

theorem memUnit_bad_address {write read : Bool} (h : addrOK addr = false) (hflag : (write || read) = true) :
    memUnit m write read addr wdata = .error .dataAddr := by
  simp [memUnit, h, hflag]

end MemoryUnit

/-! ### Stages 6 to 9 under each row of the control table -/

section Stages
variable (p : EncodingParams) (s : State) (f : Fields)

theorem executeStages_rtype :
    stagesResult (executeStages p s f .rtype) =
      stagesResult (functSelector p f.funct >>= fun sel =>
        .ok (s.writeReg f.rd (alu sel (s.readReg f.rs) (s.readReg f.rt)).1).advance) := by
  simp only [executeStages, aluWithZeroFlag, ControlVector.rtype, resolveSelector]
  cases functSelector p f.funct <;> rfl

theorem executeStages_aluImm (sel : AluSel) :
    stagesResult (executeStages p s f (.aluImm sel)) = aluRegImm sel f.rt f.rs f.imm s := rfl

/-- With a selector of its own in the row, only the memory unit can stop the stages. -/
theorem executeStages_direct {c : ControlVector} {sel : AluSel} (h : c.aluOp = .direct sel) :
    executeStages p s f c = (do
      let ext := signExtender f.imm
      let (result, zero) := alu sel (s.readReg f.rs) (operandB c.aluSrc (s.readReg f.rt) ext)
      let (mem', memdata) ← memUnit s.mem c.memWrite c.memRead result (s.readReg f.rt)
      .ok { regs := regWritePort s.regs f.rt f.rd memdata result c.regWrite c.regDst c.memToReg
            mem  := mem'
            pc   := pcSequencer s.pc f.jt ext c.jump c.branch zero }) := by
  simp only [executeStages, aluWithZeroFlag, h, resolveSelector, regReadPort, State.readReg]
  cases memUnit s.mem c.memWrite c.memRead _ _ <;> rfl

theorem executeStages_lw : stagesResult (executeStages p s f .lw) = execLw f.rt f.rs f.imm s := by
  have hstages : executeStages p s f .lw =
      (memUnit s.mem false true (effectiveAddress (s.readReg f.rs) f.imm) (s.readReg f.rt) >>= fun r =>
        .ok { s.writeReg f.rt r.2 with mem := r.1, pc := pcPlus4 s.pc }) :=
    executeStages_direct p s f rfl
  obtain ⟨h, hexec⟩ | ⟨h, hexec⟩ := execLw_cases f.rt f.rs f.imm s
  · rw [hexec, hstages, memUnit_read _ _ h]; rfl
  · rw [hexec, hstages, memUnit_bad_address _ _ h rfl]; rfl

theorem executeStages_sw : stagesResult (executeStages p s f .sw) = execSw f.rt f.rs f.imm s := by
  have hstages : executeStages p s f .sw =
      (memUnit s.mem true false (effectiveAddress (s.readReg f.rs) f.imm) (s.readReg f.rt) >>= fun r =>
        .ok { s with mem := r.1, pc := pcPlus4 s.pc }) :=
    executeStages_direct p s f rfl
  obtain ⟨h, hexec⟩ | ⟨h, hexec⟩ := execSw_cases f.rt f.rs f.imm s
  · rw [hexec, hstages, memUnit_write _ _ h]; rfl
  · rw [hexec, hstages, memUnit_bad_address _ _ h rfl]; rfl

theorem executeStages_beq : stagesResult (executeStages p s f .beq) = execBeq f.rs f.rt f.imm s := by
  have hstages : executeStages p s f .beq =
      .ok (s.setPc (if (alu .sub (s.readReg f.rs) (s.readReg f.rt)).2 then branchTarget s.pc (signExtender f.imm)
        else pcPlus4 s.pc)) := rfl
  rw [hstages, execBeq]
  split <;> rfl

theorem executeStages_j : stagesResult (executeStages p s f .j) = execJ f.jt s := rfl

end Stages

/-- The function code selects the instruction and the ALU operation together, or neither (R90, R121). -/
theorem decodeRtype_functSelector_cases (p : EncodingParams) (f : Fields) :
    (decodeRtype p f = .illegalFunct ∧ functSelector p f.funct = .error .funct) ∨
    ∃ i sel, decodeRtype p f = .instr i ∧ functSelector p f.funct = .ok sel ∧
      ∀ s, exec i s = aluRegReg sel f.rd f.rs f.rt s := by
  unfold decodeRtype functSelector
  split_ifs
  case neg => exact .inl ⟨rfl, rfl⟩
  all_goals exact .inr ⟨_, _, rfl, rfl, fun _ => rfl⟩

/-- An R-type word: `exec` of the instruction it decodes to is what stages 6 to 9 do under the R-type row. -/
theorem runDecoded_decodeRtype (p : EncodingParams) (s : State) (f : Fields) :
    runDecoded s (decodeRtype p f) = stagesResult (executeStages p s f .rtype) := by
  rw [executeStages_rtype]
  obtain ⟨hd, hf⟩ | ⟨i, sel, hd, hf, hexec⟩ := decodeRtype_functSelector_cases p f
  · rw [hd, hf]; rfl
  · rw [hd, hf]; exact hexec s

/-- Any word: what a step makes of the decoded word is what the cycle makes of the word's row of the control table. -/
theorem runDecoded_decodeFields {p : EncodingParams} (hp : p.opcodes.Nodup) (s : State) (f : Fields) :
    runDecoded s (decodeFields p f) = stagesResult (decodeRom p f.op >>= executeStages p s f) := by
  obtain ⟨romRtype, romAddi, romSlti, romSltiu, romAndi, romOri, romLui, romLw, romSw, romBeq, romJ⟩ :=
    decodeRom_rows hp
  obtain ⟨decRtype, decAddi, decSlti, decSltiu, decAndi, decOri, decLui, decLw, decSw, decBeq, decJ⟩ :=
    decodeFields_rows hp f
  by_cases hop : f.op ∈ p.opcodes
  · simp only [EncodingParams.opcodes, List.mem_cons, List.not_mem_nil, or_false] at hop
    rcases hop with h | h | h | h | h | h | h | h | h | h | h
    · rw [decRtype h, h, romRtype]; exact runDecoded_decodeRtype p s f
    · rw [decAddi h, h, romAddi]; rfl
    · rw [decJ h, h, romJ]; rfl
    · rw [decBeq h, h, romBeq]; exact (executeStages_beq p s f).symm
    · rw [decSlti h, h, romSlti]; rfl
    · rw [decSltiu h, h, romSltiu]; rfl
    · rw [decAndi h, h, romAndi]; rfl
    · rw [decOri h, h, romOri]; rfl
    · rw [decLui h, h, romLui]; rfl
    · rw [decLw h, h, romLw]; exact (executeStages_lw p s f).symm
    · rw [decSw h, h, romSw]; exact (executeStages_sw p s f).symm
  · rw [decodeFields_unsupported hop, decodeRom_unsupported hop]; rfl

/-- Settles O39: both descriptions halt alike when the fetch fails, and otherwise agree on the fields of the fetched word. -/
theorem stepRefinesCycle : Obligations.StepRefinesCycle := by
  intro p hp s
  rw [cycleWith_result]
  cases hpc : addrOK s.pc with
  | false => rw [stepWith_of_bad_pc p hpc, stages_of_bad_pc p hpc, stagesResult_error]
  | true =>
    rw [stepWith_of_fetched p hpc, stages_of_fetched p hpc]
    exact runDecoded_decodeFields (p.wf_iff.1 hp).1 s (partition s.fetched)

end Sys2Proof.Machine

/-! ### The effect of an instruction, and the invariant of the state (10_state.md)

Once its source registers are read, an instruction does one of four things: it writes a register and advances, stores a word
and advances, sets the pc alone, or halts. `exec_effect` says this once, with the conditions the effect meets and with what
it depends on; what a step keeps, changes and reads (R22, R23, R26, R27) follows from it by cases on the effect. -/

namespace Sys2Proof.Machine

/-! ### Addresses -/

/-- The whole of R52's check is alignment and the upper bound. -/
theorem addrOK_iff (a : Word) : addrOK a = true ↔ 4 ∣ a.toNat ∧ a.toNat ≤ 0xFFFF := by
  have hlow : a.extractLsb' 0 2 = 0#2 ↔ 4 ∣ a.toNat := by
    rw [← BitVec.toNat_inj, BitVec.extractLsb'_toNat]
    simp [Nat.dvd_iff_mod_eq_zero]
  simp only [addrOK, Bool.and_eq_true, beq_iff_eq, decide_eq_true_eq, hlow, wordIndex, BitVec.toNat_ushiftRight,
    Nat.shiftRight_eq_div_pow, Config.maxAddr, Config.memWords]
  omega

theorem four_dvd_pcPlus4 {pc : Word} (h : 4 ∣ pc.toNat) : 4 ∣ (pcPlus4 pc).toNat := by
  rw [pcPlus4, BitVec.toNat_add]
  simp only [BitVec.toNat_ofNat]
  omega

theorem four_dvd_branchTarget {pc : Word} (ext : Word) (h : 4 ∣ pc.toNat) : 4 ∣ (branchTarget pc ext).toNat := by
  have hpc := four_dvd_pcPlus4 h
  rw [branchTarget, BitVec.toNat_add, BitVec.toNat_shiftLeft, Nat.shiftLeft_eq]
  omega

theorem four_dvd_jumpTarget (pc : Word) (jt : Target26) : 4 ∣ (jumpTarget pc jt).toNat := by
  rw [jumpTarget, BitVec.toNat_append]
  simp [Nat.shiftLeft_eq]

/-! ### The effect of an instruction -/

/-- What an instruction does to the state once its sources are read. -/
inductive Effect where
  | write (r : RegIdx) (v : Word)
  | store (a v : Word)
  | goto (target : Word)
  | halt (cause : Fault)

/-- The answer of a cycle that has this effect. -/
def Effect.run : Effect → State → Result
  | .write r v, s   => .next (s.writeReg r v).advance
  | .store a v, s   => .next (s.store a v).advance
  | .goto target, s => .next (s.setPc target)
  | .halt cause, _  => raiseHalt cause

/-- What the effect of instruction `i` in state `s` must meet. -/
def Effect.Allowed (i : Instr) (s : State) : Effect → Prop
  | .write r _   => dest i = some r
  | .store a v   => addrOK a = true ∧
      ∃ rt rs imm, i = .sw rt rs imm ∧ a = effectiveAddress (s.readReg rs) imm ∧ v = s.readReg rt
  | .goto target => s.pcAligned → 4 ∣ target.toNat
  | .halt cause  => cause = .dataAddr

/-- The registers an instruction reads (R23); lui reads register 0 in the place of operand A. -/
def sources : Instr → List RegIdx
  | .add _ rs rt | .sub _ rs rt | .and _ rs rt | .or _ rs rt | .slt _ rs rt | .sltu _ rs rt => [rs, rt]
  | .addi _ rs _ | .slti _ rs _ | .sltiu _ rs _ | .andi _ rs _ | .ori _ rs _ | .lw _ rs _ => [rs]
  | .lui _ _ => [0#5]
  | .sw rt rs _ | .beq rs rt _ => [rs, rt]
  | .j _ => []

/-- The instruction decoded from fields `f`, if there is one, reads register 0 and the two source fields' registers at most. -/
def ReadsOnlyFields (f : Fields) : DecodeResult → Prop
  | .instr i => ∀ r ∈ sources i, r = 0#5 ∨ r = f.rs ∨ r = f.rt
  | .illegalOpcode | .illegalFunct => True

theorem ReadsOnlyFields.ite {f : Fields} {c : Prop} [Decidable c] {d e : DecodeResult} (hd : ReadsOnlyFields f d)
    (he : ReadsOnlyFields f e) : ReadsOnlyFields f (if c then d else e) := by
  split <;> assumption

theorem decodeRtype_readsOnlyFields (p : EncodingParams) (f : Fields) : ReadsOnlyFields f (decodeRtype p f) := by
  unfold decodeRtype
  repeat' refine .ite ?_ ?_
  all_goals simp [ReadsOnlyFields, sources]

theorem decodeFields_readsOnlyFields (p : EncodingParams) (f : Fields) : ReadsOnlyFields f (decodeFields p f) := by
  unfold decodeFields
  refine .ite (decodeRtype_readsOnlyFields p f) ?_
  repeat' refine .ite ?_ ?_
  all_goals simp [ReadsOnlyFields, sources]

/-- The registers an instruction reads are named by the word it is decoded from (R23, R118). -/
theorem sources_of_decode {p : EncodingParams} {w : Word} {i : Instr} (h : decodeWith p w = .instr i) :
    ∀ r ∈ sources i, r = 0#5 ∨ r = (partition w).rs ∨ r = (partition w).rt := by
  have hreads := decodeFields_readsOnlyFields p (partition w)
  rw [← decodeWith, h] at hreads
  exact hreads

/-- The states agree on pc, memory and the registers `regs`. -/
structure Agree (regs : List RegIdx) (s u : State) : Prop where
  pc   : u.pc = s.pc
  mem  : u.mem = s.mem
  read : ∀ r ∈ regs, u.readReg r = s.readReg r

theorem Agree.refl (regs : List RegIdx) (s : State) : Agree regs s s := ⟨rfl, rfl, fun _ _ => rfl⟩

/-- `e` is the effect of `i` in `s`, and in every state that agrees with `s` on the sources of `i`. -/
def HasEffect (i : Instr) (s : State) (e : Effect) : Prop :=
  e.Allowed i s ∧ ∀ u, Agree (sources i) s u → exec i u = e.run u

section Effects
variable {i : Instr} (s : State)

theorem hasEffect_aluRegReg {sel : AluSel} {rd rs rt : RegIdx} (hexec : exec i = aluRegReg sel rd rs rt)
    (hdest : dest i = some rd) (hsrc : sources i = [rs, rt]) :
    HasEffect i s (.write rd (aluResult sel (s.readReg rs) (s.readReg rt))) := by
  refine ⟨hdest, fun u h => ?_⟩
  rw [hexec, aluRegReg_next, h.read rs (by simp [hsrc]), h.read rt (by simp [hsrc]), Effect.run]

theorem hasEffect_aluRegImm {sel : AluSel} {rt rs : RegIdx} {imm : Imm16} (hexec : exec i = aluRegImm sel rt rs imm)
    (hdest : dest i = some rt) (hsrc : sources i = [rs]) :
    HasEffect i s (.write rt (aluResult sel (s.readReg rs) (signExtender imm))) := by
  refine ⟨hdest, fun u h => ?_⟩
  rw [hexec, aluRegImm_next, h.read rs (by simp [hsrc]), Effect.run]

end Effects

section MemoryAndControl
variable (rt rs : RegIdx) (imm : Imm16) (s : State)

theorem hasEffect_lw : HasEffect (.lw rt rs imm) s
    (if addrOK (effectiveAddress (s.readReg rs) imm) then .write rt (s.load (effectiveAddress (s.readReg rs) imm))
      else .halt .dataAddr) := by
  refine ⟨by split <;> rfl, fun u h => ?_⟩
  have hrs : u.readReg rs = s.readReg rs := h.read rs (by simp [sources])
  simp only [exec, execLw, hrs, State.load, h.mem]
  split <;> rfl

theorem hasEffect_sw : HasEffect (.sw rt rs imm) s
    (if addrOK (effectiveAddress (s.readReg rs) imm) then .store (effectiveAddress (s.readReg rs) imm) (s.readReg rt)
      else .halt .dataAddr) := by
  refine ⟨?_, fun u h => ?_⟩
  · split
    next ha => exact ⟨ha, rt, rs, imm, rfl, rfl, rfl⟩
    next => rfl
  · have hrs : u.readReg rs = s.readReg rs := h.read rs (by simp [sources])
    have hrt : u.readReg rt = s.readReg rt := h.read rt (by simp [sources])
    simp only [exec, execSw, hrs, hrt]
    split <;> rfl

theorem hasEffect_beq : HasEffect (.beq rs rt imm) s
    (.goto (if s.readReg rs = s.readReg rt then branchTarget s.pc (signExtender imm) else pcPlus4 s.pc)) := by
  refine ⟨fun haligned => ?_, fun u h => ?_⟩
  · split
    · exact four_dvd_branchTarget _ haligned
    · exact four_dvd_pcPlus4 haligned
  · have hrs : u.readReg rs = s.readReg rs := h.read rs (by simp [sources])
    have hrt : u.readReg rt = s.readReg rt := h.read rt (by simp [sources])
    simp only [exec, execBeq, alu_sub_zero, decide_eq_true_eq, hrs, hrt, h.pc, State.advance]
    split <;> rfl

theorem hasEffect_j (jt : Target26) : HasEffect (.j jt) s (.goto (jumpTarget s.pc jt)) :=
  ⟨fun _ => four_dvd_jumpTarget s.pc jt, fun _ h => by rw [← h.pc]; rfl⟩

end MemoryAndControl

/-- Every instruction has an effect in every state, and its pc, its memory and its sources determine it. -/
theorem exec_effect (i : Instr) (s : State) : ∃ e, HasEffect i s e := by
  cases i with
  | add | sub | and | or | slt | sltu => exact ⟨_, hasEffect_aluRegReg s rfl rfl rfl⟩
  | addi | slti | sltiu | andi | ori | lui => exact ⟨_, hasEffect_aluRegImm s rfl rfl rfl⟩
  | lw rt rs imm => exact ⟨_, hasEffect_lw rt rs imm s⟩
  | sw rt rs imm => exact ⟨_, hasEffect_sw rt rs imm s⟩
  | beq rs rt imm => exact ⟨_, hasEffect_beq rt rs imm s⟩
  | j jt => exact ⟨_, hasEffect_j s jt⟩

/-! ### The effect of a step -/

/-- A step that completes has the effect of the instruction it fetched. -/
theorem stepWith_next_effect {p : EncodingParams} {s t : State} (h : stepWith p s = .next t) :
    ∃ i e, decodeWith p s.fetched = .instr i ∧ Effect.Allowed i s e ∧ e.run s = .next t := by
  obtain ⟨-, hs⟩ | ⟨-, -, hs⟩ | ⟨-, -, hs⟩ | ⟨-, i, hi, hs⟩ := stepWith_cases p s <;> rw [hs] at h
  · cases h
  · cases h
  · cases h
  · obtain ⟨e, hallowed, hexec⟩ := exec_effect i s
    exact ⟨i, e, hi, hallowed, hexec s (.refl _ s) ▸ h⟩

/-- Only a failed fetch raises Halt(FETCH_ADDR). -/
theorem addrOK_of_fetchAddr {p : EncodingParams} {s : State} (h : stepWith p s = .fault .fetchAddr) :
    addrOK s.pc = false := by
  obtain ⟨hpc, hs⟩ | ⟨-, -, hs⟩ | ⟨-, -, hs⟩ | ⟨-, i, -, hs⟩ := stepWith_cases p s <;> rw [hs] at h
  · exact hpc
  · cases h
  · cases h
  · obtain ⟨e, hallowed, hexec⟩ := exec_effect i s
    rw [hexec s (.refl _ s)] at h
    cases e with
    | halt cause => cases h; cases hallowed
    | write | store | goto => cases h

/-- The two source fields of the fetched word: the registers a step may read (R118). -/
def State.sourceFields (s : State) : List RegIdx := [(partition s.fetched).rs, (partition s.fetched).rt]

/-- Agreement on the source fields of a word is agreement on the sources of the instruction it decodes to. -/
theorem Agree.of_decode {p : EncodingParams} {s u : State} {i : Instr} (h : Agree s.sourceFields s u)
    (hi : decodeWith p s.fetched = .instr i) : Agree (sources i) s u := by
  refine ⟨h.pc, h.mem, fun r hr => ?_⟩
  obtain rfl | hr | hr := sources_of_decode hi r hr
  · rfl
  · exact h.read r (by simp [State.sourceFields, hr])
  · exact h.read r (by simp [State.sourceFields, hr])

/-- A step has one and the same effect in all states that agree on pc, memory and the source fields of the fetched word. -/
theorem stepWith_effect (p : EncodingParams) (s : State) :
    ∃ e : Effect, ∀ u, Agree s.sourceFields s u → stepWith p u = e.run u := by
  cases hpc : addrOK s.pc with
  | false => exact ⟨.halt .fetchAddr, fun u h => stepWith_of_bad_pc p (h.pc ▸ hpc)⟩
  | true =>
    have hstep (u : State) (h : Agree s.sourceFields s u) : stepWith p u = runDecoded u (decodeWith p s.fetched) := by
      rw [stepWith_of_fetched p (h.pc ▸ hpc), State.fetched, h.pc, h.mem, State.fetched]
    cases hd : decodeWith p s.fetched with
    | illegalOpcode => exact ⟨.halt .opcode, fun u h => by rw [hstep u h, hd]; rfl⟩
    | illegalFunct => exact ⟨.halt .funct, fun u h => by rw [hstep u h, hd]; rfl⟩
    | instr i =>
      obtain ⟨e, -, hexec⟩ := exec_effect i s
      refine ⟨e, fun u h => ?_⟩
      rw [hstep u h, hd]
      exact hexec u (h.of_decode hd)

/-! ### What an effect keeps, changes and reads -/

section Effect
variable {i : Instr} {e : Effect} {s t : State}

/-- Every allowed effect keeps the invariant. -/
theorem Effect.run_keeps_inv (hallowed : e.Allowed i s) (hinv : StateInv s) (h : e.run s = .next t) : StateInv t := by
  obtain ⟨hmem, hzero, haligned⟩ := hinv
  cases e with
  | write r v => cases h; exact ⟨hmem, (RegFile.write_slot_zero s.regs r v).trans hzero, four_dvd_pcPlus4 haligned⟩
  | store a v =>
    cases h
    obtain ⟨ha, -⟩ := hallowed
    exact ⟨wf_memWrite s.mem a v hmem ha, hzero, four_dvd_pcPlus4 haligned⟩
  | goto target => cases h; exact ⟨hmem, hzero, hallowed haligned⟩
  | halt cause => cases h

/-- A memory word that an allowed effect changes is the one a store-word names, and takes its data. -/
theorem Effect.run_changes_word (hallowed : e.Allowed i s) (h : e.run s = .next t) {k : Nat}
    (hk : Memory.word t.mem k ≠ Memory.word s.mem k) :
    ∃ rt rs imm, i = .sw rt rs imm ∧ k = wordIndex (effectiveAddress (s.readReg rs) imm) ∧ k < Config.memWords ∧
      Memory.word t.mem k = s.readReg rt := by
  cases e with
  | write r v => cases h; exact absurd rfl hk
  | store a v =>
    cases h
    obtain ⟨ha, rt, rs, imm, hi, rfl, rfl⟩ := hallowed
    have hword := Memory.word_setWord s.mem (wordIndex (effectiveAddress (s.readReg rs) imm)) k (s.readReg rt)
    by_cases hidx : wordIndex (effectiveAddress (s.readReg rs) imm) = k
    · exact ⟨rt, rs, imm, hi, hidx.symm, hidx ▸ addrOK_index ha, hword.trans (if_pos hidx)⟩
    · exact absurd (hword.trans (if_neg hidx)) hk
  | goto target => cases h; exact absurd rfl hk
  | halt cause => cases h

/-- A register that an allowed effect changes is the destination of the instruction. -/
theorem Effect.run_changes_reg (hallowed : e.Allowed i s) (h : e.run s = .next t) {r : RegIdx}
    (hr : t.readReg r ≠ s.readReg r) : dest i = some r := by
  cases e with
  | write q v =>
    cases h
    rw [State.readReg_advance, State.readReg_writeReg] at hr
    by_cases hq : r = q
    · exact hq ▸ hallowed
    · simp [hq] at hr
  | store a v => cases h; exact absurd rfl hr
  | goto target => cases h; exact absurd rfl hr
  | halt cause => cases h

theorem Effect.run_fault_any {c : Fault} (u : State) (h : e.run s = .fault c) : e.run u = .fault c := by
  cases e with
  | halt cause => exact h
  | write | store | goto => cases h

/-- From two states with the same pc and memory one effect leads to the same pc and memory, and a register becomes equal
in both or keeps its value in both. -/
theorem Effect.run_next_alike {u : State} (hpc : u.pc = s.pc) (hmem : u.mem = s.mem) (h : e.run s = .next t) :
    ∃ v, e.run u = .next v ∧ v.pc = t.pc ∧ v.mem = t.mem ∧
      ∀ r, v.readReg r = t.readReg r ∨ (v.readReg r = u.readReg r ∧ t.readReg r = s.readReg r) := by
  cases e with
  | write q x =>
    cases h
    refine ⟨_, rfl, by simp [hpc], by simp [hmem], fun r => ?_⟩
    simp only [State.readReg_advance, State.readReg_writeReg]
    by_cases hr : r = q ∧ q ≠ 0#5
    · exact .inl (by simp [hr])
    · exact .inr (by simp [hr])
  | store a x => cases h; exact ⟨_, rfl, by simp [hpc], by simp [hmem], fun r => .inr ⟨rfl, rfl⟩⟩
  | goto target => cases h; exact ⟨_, rfl, rfl, hmem, fun r => .inr ⟨rfl, rfl⟩⟩
  | halt cause => cases h

end Effect

/-! ### The obligations about steps and runs -/

/-- Settles O47, by cases on the effect of the step. -/
theorem stepKeepsInv : Obligations.StepKeepsInv := by
  intro p s t hinv h
  obtain ⟨i, e, -, hallowed, hrun⟩ := stepWith_next_effect h
  exact Effect.run_keeps_inv hallowed hinv hrun

/-- Settles O50: only a store has a word to change. -/
theorem onlyStoreWordChangesMemory : Obligations.OnlyStoreWordChangesMemory := by
  intro p s t h k hk
  obtain ⟨i, e, hi, hallowed, hrun⟩ := stepWith_next_effect h
  obtain ⟨rt, rs, imm, rfl, hchange⟩ := Effect.run_changes_word hallowed hrun hk
  exact ⟨rt, rs, imm, hi, hchange⟩

/-- Settles O51: only a register write has a register to change. -/
theorem onlyDestinationRegisterChanges : Obligations.OnlyDestinationRegisterChanges := by
  intro p s t h
  obtain ⟨i, e, hi, hallowed, hrun⟩ := stepWith_next_effect h
  exact ⟨i, hi, fun _ hr => Effect.run_changes_reg hallowed hrun hr⟩

/-- Settles O52: the two states share the effect of the step. -/
theorem stepReadsOnlyRsAndRt : Obligations.StepReadsOnlyRsAndRt := by
  rintro p s u _ rfl hpc hmem hrs hrt
  obtain ⟨e, he⟩ := stepWith_effect p s
  have hagree : Agree s.sourceFields s u := ⟨hpc, hmem, by simp [State.sourceFields, hrs, hrt]⟩
  rw [he s (.refl _ s), he u hagree]
  exact ⟨fun _ h => Effect.run_fault_any u h, fun _ h => Effect.run_next_alike hpc hmem h⟩

/-- The first of the cycles of a run that completes. -/
theorem completes_succ {n : Nat} {s t : State} (h : Completes (n + 1) s t) :
    ∃ s', step s = .next s' ∧ Completes n s' t := by
  unfold Completes at h ⊢
  cases hs : step s with
  | next s' => exact ⟨s', rfl, run_succ_next n hs ▸ h⟩
  | fault c => rw [run_succ_fault n hs] at h; cases h
  | refused r =>
    have hs' : Sys2Proof.core.step s = .refused r := hs
    simp [Host.Core.run, hs'] at h

/-- A run keeps the invariant. -/
theorem completes_keeps_inv {n : Nat} {s t : State} (hinv : StateInv s) (h : Completes n s t) : StateInv t := by
  induction n generalizing s with
  | zero => cases h; exact hinv
  | succ n ih =>
    obtain ⟨s', hs, hrest⟩ := completes_succ h
    exact ih (stepKeepsInv _ s s' hinv hs) hrest

/-- Settles O49: the invariant holds at the end of the run, where an aligned pc fails the check only above the range. -/
theorem runNeverMisaligned : Obligations.RunNeverMisaligned := by
  intro n s t hinv h
  have haligned : 4 ∣ t.pc.toNat := (completes_keeps_inv hinv h).aligned
  refine ⟨Nat.mod_eq_zero_of_dvd haligned, fun ⟨_, hend⟩ => ?_⟩
  by_contra hle
  have hok := (addrOK_iff t.pc).2 ⟨haligned, Nat.not_lt.1 hle⟩
  rw [addrOK_of_fetchAddr hend] at hok
  cases hok

/-! ### Memory is canonical (10_state.md R27) -/

theorem Memory.word?_cons_self (k : Nat) (v : Word) (m : Memory) : Memory.word? ((k, v) :: m) k = some v := if_pos rfl

/-- No word is listed below the first index of a canonical memory. -/
theorem Memory.head_le {lo k j : Nat} {v w : Word} {m : Memory} (hm : Memory.wfFrom lo ((k, v) :: m) = true)
    (h : Memory.word? ((k, v) :: m) j = some w) : k ≤ j := by
  obtain ⟨-, hk, hrest⟩ := (Memory.wfFrom_cons _ _ _ _).1 hm
  have hfrom : Memory.wfFrom k ((k, v) :: m) = true := (Memory.wfFrom_cons _ _ _ _).2 ⟨Nat.le_refl k, hk, hrest⟩
  by_contra hlt
  rw [Memory.word?_none_of_lt _ k j hfrom (Nat.not_le.1 hlt)] at h
  cases h

/-- The tail of a canonical memory lists what the memory lists, but for the index of the head. -/
theorem Memory.word?_tail {lo k : Nat} {v : Word} {m : Memory} (hm : Memory.wfFrom lo ((k, v) :: m) = true) (j : Nat) :
    Memory.word? m j = if k = j then none else Memory.word? ((k, v) :: m) j := by
  obtain ⟨-, -, htail⟩ := (Memory.wfFrom_cons _ _ _ _).1 hm
  by_cases hj : k = j
  · rw [if_pos hj, Memory.word?_none_of_lt m (k + 1) j htail (by omega)]
  · rw [if_neg hj, Memory.word?, if_neg hj]

/-- Canonical memories that list the same words are equal: the head has the least listed index, and the tails list the same
words again. -/
theorem Memory.eq_of_word?_eq {lo : Nat} {m m' : Memory} (hm : Memory.wfFrom lo m = true)
    (hm' : Memory.wfFrom lo m' = true) (h : ∀ j, Memory.word? m j = Memory.word? m' j) : m = m' := by
  induction m generalizing lo m' with
  | nil =>
    cases m' with
    | nil => rfl
    | cons c m' => have hc := h c.1; rw [Memory.word?_cons_self] at hc; cases hc
  | cons c m ih =>
    obtain ⟨k, v⟩ := c
    have hk := h k
    rw [Memory.word?_cons_self] at hk
    cases m' with
    | nil => cases hk
    | cons c' m' =>
      obtain ⟨k', v'⟩ := c'
      have hk' := h k'
      rw [Memory.word?_cons_self] at hk'
      obtain rfl : k = k' := Nat.le_antisymm (Memory.head_le hm hk') (Memory.head_le hm' hk.symm)
      obtain rfl : v = v' := Option.some.inj (hk.trans (Memory.word?_cons_self k v' m'))
      obtain ⟨-, -, htail⟩ := (Memory.wfFrom_cons _ _ _ _).1 hm
      obtain ⟨-, -, htail'⟩ := (Memory.wfFrom_cons _ _ _ _).1 hm'
      rw [ih htail htail' fun j => by rw [Memory.word?_tail hm, Memory.word?_tail hm', h j]]

/-- Settles O54: canonical memories are lists rising from 0. -/
theorem equalMemoriesAreEqualLists : Obligations.EqualMemoriesAreEqualLists :=
  fun _ _ hm hm' h => Memory.eq_of_word?_eq hm hm' h

/-! ### Register 0 (10_state.md R22) and reset (R34 to R37, R240) -/

section WritePort
variable (x : RegFile) (rt rd : RegIdx) (memdata result : Word) (d : RegDst) (m : MemToReg)

/-- The write port leaves the registers alone or makes one register write, to one of its two indices. -/
theorem regWritePort_cases (w : Bool) :
    regWritePort x rt rd memdata result w d m = x ∨
    ∃ i v, (i = rt ∨ i = rd) ∧ regWritePort x rt rd memdata result w d m = RegFile.write x i v := by
  cases w with
  | false => exact .inl rfl
  | true =>
    cases d with
    | rt => exact .inr ⟨rt, _, .inl rfl, rfl⟩
    | rd => exact .inr ⟨rd, _, .inr rfl, rfl⟩

end WritePort

/-- Settles O13: no register write touches slot 0, and a register read never looks at it. -/
theorem registerZeroHardwired : Obligations.RegisterZeroHardwired := by
  refine ⟨State.readReg_zero, State.writeReg_zero, fun x rt rd memdata result w d m => ⟨?_, RegFile.read_zero _⟩,
    fun x memdata result w d m => ?_⟩
  · obtain h | ⟨i, v, -, h⟩ := regWritePort_cases x rt rd memdata result d m w
    · rw [h]
    · rw [h, RegFile.write_slot_zero]
  · obtain h | ⟨i, v, rfl | rfl, h⟩ := regWritePort_cases x 0#5 0#5 memdata result d m w
    · exact h
    · exact h
    · exact h

theorem stateInv_boot {image : Memory} (h : Memory.wf image = true) : StateInv (boot image) :=
  ⟨h, Vector.getElem_replicate _, Nat.dvd_zero 4⟩

/-- Settles O48: reset boots with an empty memory, a reset edge with the memory that is there. -/
theorem resetMeetsInv : Obligations.ResetMeetsInv :=
  ⟨stateInv_boot wf_reset_mem, fun _ h => stateInv_boot h, fun _ hinv => stateInv_boot hinv.memory⟩

theorem read_resetRegs (r : RegIdx) : RegFile.read resetRegs r = 0#32 := by
  unfold RegFile.read resetRegs
  split
  · rfl
  · exact Vector.getElem_replicate _

/-- Settles O56: every slot of the register file holds the reset default. -/
theorem resetState : Obligations.ResetState :=
  ⟨rfl, by decide, read_resetRegs, fun _ => rfl⟩

end Sys2Proof.Machine

/-! ### Valid addresses, and the word a store leaves behind (20_memory.md) -/

namespace Sys2Proof.Machine

theorem extractLsb'_eq_zero_iff {w : Nat} (a : BitVec w) (start len : Nat) :
    a.extractLsb' start len = 0#len ↔ a.toNat / 2 ^ start % 2 ^ len = 0 := by
  rw [← BitVec.toNat_inj, BitVec.extractLsb'_toNat, Nat.shiftRight_eq_div_pow, BitVec.toNat_ofNat, Nat.zero_mod]

/-- The equivalent form of R52: the upper half and the two low bits are zero. -/
theorem addrOK_iff_bits (a : Word) : addrOK a = true ↔ a.extractLsb' 16 16 = 0#16 ∧ a.extractLsb' 0 2 = 0#2 := by
  have hlt := a.isLt
  rw [addrOK_iff, extractLsb'_eq_zero_iff, extractLsb'_eq_zero_iff]
  omega

theorem wordIndex_eq_div (a : Word) : wordIndex a = a.toNat / 4 := by
  rw [wordIndex, BitVec.toNat_ushiftRight, Nat.shiftRight_eq_div_pow]

/-- A valid address is determined by its word index. -/
theorem eq_ofNat_wordIndex {a : Word} (h : addrOK a = true) : a = BitVec.ofNat 32 (4 * wordIndex a) := by
  obtain ⟨haligned, -⟩ := (addrOK_iff a).1 h
  rw [wordIndex_eq_div, Nat.mul_div_cancel' haligned, BitVec.ofNat_toNat, BitVec.setWidth_eq]

theorem addrOK_ofNat_mul_four {k : Nat} (hk : k < 16384) : addrOK (BitVec.ofNat 32 (4 * k)) = true := by
  rw [addrOK_iff, BitVec.toNat_ofNat, Nat.mod_eq_of_lt (by omega)]
  omega

theorem eq_of_wordIndex_eq {a b : Word} (ha : addrOK a = true) (hb : addrOK b = true) (h : wordIndex a = wordIndex b) :
    a = b := by
  rw [eq_ofNat_wordIndex ha, h, ← eq_ofNat_wordIndex hb]

theorem fetchUnit_ok (m : Memory) {pc : Word} (h : addrOK pc = true) : fetchUnit pc m = .ok (memRead m pc) :=
  if_pos h

theorem fetchUnit_ok_iff (pc : Word) (m : Memory) : (∃ w, fetchUnit pc m = .ok w) ↔ addrOK pc = true := by
  obtain ⟨h, hf⟩ | ⟨h, hf⟩ := fetchUnit_cases pc m <;> simp [h, hf]

theorem memUnit_ok_iff (m : Memory) {write read : Bool} (addr wdata : Word) (hflag : (write || read) = true) :
    (∃ r, memUnit m write read addr wdata = .ok r) ↔ addrOK addr = true := by
  cases h : addrOK addr with
  | false => simp [memUnit_bad_address m wdata h hflag]
  | true => simp [memUnit, h, hflag]

/-- Settles O9: all the forms are read off alignment and the upper bound, and both units make this one check. -/
theorem addressValidity : Obligations.AddressValidity := by
  refine ⟨fun a => ⟨?_, addrOK_iff_bits a, ?_, fetchUnit_ok_iff a, fun m _ _ d => memUnit_ok_iff m a d⟩, ?_⟩
  · rw [addrOK_iff]
    omega
  · constructor
    · exact fun h => ⟨wordIndex a, addrOK_index h, eq_ofNat_wordIndex h⟩
    · rintro ⟨k, hk, rfl⟩
      exact addrOK_ofNat_mul_four hk
  · decide

/-! ### Read after store -/

theorem memRead_memWrite_same (m : Memory) (a v : Word) : memRead (memWrite m a v) a = v := by
  rw [memRead_memWrite, if_pos rfl]

/-- A word written at a valid address changes no read at another one. -/
theorem memRead_memWrite_ne (m : Memory) {a b : Word} (v : Word) (ha : addrOK a = true) (hb : addrOK b = true)
    (hne : b ≠ a) : memRead (memWrite m a v) b = memRead m b := by
  rw [memRead_memWrite, if_neg fun h => hne (eq_of_wordIndex_eq hb ha h.symm)]

/-- A step that completes has executed the instruction it decoded. -/
theorem exec_of_stepWith_next {p : EncodingParams} {s t : State} {i : Instr} (hi : decodeWith p s.fetched = .instr i)
    (h : stepWith p s = .next t) : exec i s = .next t := by
  cases hpc : addrOK s.pc with
  | false => rw [stepWith_of_bad_pc p hpc] at h; cases h
  | true => rwa [stepWith_of_fetched p hpc, hi] at h

/-- A store-word that completes has a valid address, and stores there. -/
theorem execSw_next {rt rs : RegIdx} {imm : Imm16} {s t : State} (h : execSw rt rs imm s = .next t) :
    addrOK (effectiveAddress (s.readReg rs) imm) = true ∧
      t.mem = memWrite s.mem (effectiveAddress (s.readReg rs) imm) (s.readReg rt) := by
  obtain ⟨ha, hexec⟩ | ⟨-, hexec⟩ := execSw_cases rt rs imm s <;> rw [hexec] at h <;> cases h
  exact ⟨ha, rfl⟩

/-- Settles O53: fetch and load read the memory that the store wrote, at the one word its address names. -/
theorem storedWordIsFetched : Obligations.StoredWordIsFetched := by
  rintro p s t u rt rs imm ea hd rfl hstep hu
  obtain ⟨hea, ht⟩ := execSw_next (exec_of_stepWith_next hd hstep)
  rw [State.load, hu, ht]
  refine ⟨?_, memRead_memWrite_same _ _ _, fun a ha hne => ?_⟩
  · rw [fetchUnit_ok _ hea, memRead_memWrite_same]
  · rw [fetchUnit_ok _ ha, fetchUnit_ok _ ha, memRead_memWrite_ne _ _ hea ha hne]

end Sys2Proof.Machine

/-! ### Encoding and decoding (30_encoding.md)

An instruction word is put together from the fields of its format, and the decoder reads nothing but those fields. -/

namespace Sys2Proof.Machine

/-! ### The rows of the function-code table (R85, R90) -/

/-- The decoder at the supported function codes; distinct numbers keep a code from being hidden by an earlier one. -/
theorem decodeRtype_rows {p : EncodingParams} (hp : p.functs.Nodup) (f : Fields) :
    (f.funct = p.fnAdd → decodeRtype p f = .instr (.add f.rd f.rs f.rt)) ∧
    (f.funct = p.fnSub → decodeRtype p f = .instr (.sub f.rd f.rs f.rt)) ∧
    (f.funct = p.fnAnd → decodeRtype p f = .instr (.and f.rd f.rs f.rt)) ∧
    (f.funct = p.fnOr → decodeRtype p f = .instr (.or f.rd f.rs f.rt)) ∧
    (f.funct = p.fnSlt → decodeRtype p f = .instr (.slt f.rd f.rs f.rt)) ∧
    (f.funct = p.fnSltu → decodeRtype p f = .instr (.sltu f.rd f.rs f.rt)) := by
  simp only [EncodingParams.functs, List.nodup_cons, List.mem_cons, not_or] at hp
  and_intros <;> intro h <;> simp [decodeRtype, h, hp, Ne.symm]

/-- An unsupported function code is illegal (R92). -/
theorem decodeRtype_unsupported {p : EncodingParams} {f : Fields} (h : f.funct ∉ p.functs) :
    decodeRtype p f = .illegalFunct := by
  simp only [EncodingParams.functs, List.mem_cons, not_or] at h
  simp [decodeRtype, h]

/-- An unsupported function code selects no ALU operation (R92). -/
theorem functSelector_unsupported {p : EncodingParams} {fn : Op6} (h : fn ∉ p.functs) :
    functSelector p fn = .error .funct := by
  simp only [EncodingParams.functs, List.mem_cons, not_or] at h
  simp [functSelector, h]

/-- Under the R-type opcode the function code decides. -/
theorem decodeFields_of_opRtype {p : EncodingParams} {f : Fields} (h : f.op = p.opRtype) :
    decodeFields p f = decodeRtype p f :=
  if_pos h

/-! ### Decode of encode -/

/-- Settles O1: the fields of the word select the instruction's row of each table, and give its operands back. -/
theorem decodeOfEncode : Obligations.DecodeOfEncode := by
  intro p hp i
  obtain ⟨hop, -, -, -, hfn, -⟩ := p.wf_iff.1 hp
  obtain ⟨decRtype, decAddi, decSlti, decSltiu, decAndi, decOri, decLui, decLw, decSw, decBeq, decJ⟩ :=
    decodeFields_rows hop (partition (encodeWith p i))
  obtain ⟨decAdd, decSub, decAnd, decOr, decSlt, decSltu⟩ := decodeRtype_rows hfn (partition (encodeWith p i))
  rw [decodeWith]
  cases i with
  | add => rw [decRtype (partition_rWord_op ..), decAdd (partition_rWord_funct ..)]; simp [encodeWith]
  | sub => rw [decRtype (partition_rWord_op ..), decSub (partition_rWord_funct ..)]; simp [encodeWith]
  | and => rw [decRtype (partition_rWord_op ..), decAnd (partition_rWord_funct ..)]; simp [encodeWith]
  | or => rw [decRtype (partition_rWord_op ..), decOr (partition_rWord_funct ..)]; simp [encodeWith]
  | slt => rw [decRtype (partition_rWord_op ..), decSlt (partition_rWord_funct ..)]; simp [encodeWith]
  | sltu => rw [decRtype (partition_rWord_op ..), decSltu (partition_rWord_funct ..)]; simp [encodeWith]
  | addi => rw [decAddi (partition_iWord_op ..)]; simp [encodeWith]
  | slti => rw [decSlti (partition_iWord_op ..)]; simp [encodeWith]
  | sltiu => rw [decSltiu (partition_iWord_op ..)]; simp [encodeWith]
  | andi => rw [decAndi (partition_iWord_op ..)]; simp [encodeWith]
  | ori => rw [decOri (partition_iWord_op ..)]; simp [encodeWith]
  | lui => rw [decLui (partition_iWord_op ..)]; simp [encodeWith]
  | lw => rw [decLw (partition_iWord_op ..)]; simp [encodeWith]
  | sw => rw [decSw (partition_iWord_op ..)]; simp [encodeWith]
  | beq => rw [decBeq (partition_iWord_op ..)]; simp [encodeWith]
  | j => rw [decJ (partition_jWord_op ..)]; simp [encodeWith]

/-! ### Encode of decode -/

section Formats
variable {w : Word} {op : Op6}

/-- The R format has no place for bits 10:6 of the word (R82, R93). -/
theorem rWord_of_fields {fn : Op6} (hop : (partition w).op = op) (hfn : (partition w).funct = fn) :
    rWord op (partition w).rs (partition w).rt (partition w).rd fn = w &&& ~~~0x000007C0#32 := by
  subst hop hfn
  apply BitVec.eq_of_getLsbD_eq
  intro k hk
  rw [rWord_getLsbD]
  interval_cases k <;> simp [partition]

/-- The fields of the I format are the whole word (R83). -/
theorem iWord_of_fields (hop : (partition w).op = op) :
    iWord op (partition w).rs (partition w).rt (partition w).imm = w &&& ~~~0x00000000#32 := by
  subst hop
  apply BitVec.eq_of_getLsbD_eq
  intro k hk
  rw [iWord_getLsbD]
  interval_cases k <;> simp [partition]

/-- An I-format word with 0 in the place of `rs` has lost bits 25:21 of the word (R93, R96). -/
theorem iWord_of_fields_rs_zero (hop : (partition w).op = op) :
    iWord op 0#5 (partition w).rt (partition w).imm = w &&& ~~~0x03E00000#32 := by
  subst hop
  apply BitVec.eq_of_getLsbD_eq
  intro k hk
  rw [iWord_getLsbD]
  interval_cases k <;> simp [partition]

/-- The fields of the J format are the whole word (R84). -/
theorem jWord_of_fields (hop : (partition w).op = op) : jWord op (partition w).jt = w &&& ~~~0x00000000#32 := by
  subst hop
  apply BitVec.eq_of_getLsbD_eq
  intro k hk
  rw [jWord_getLsbD]
  interval_cases k <;> simp [partition]

end Formats

/-- The instruction decoded from word `w`, if there is one, has `w` as its word but for the bits no block reads. -/
def EncodesBack (p : EncodingParams) (w : Word) : DecodeResult → Prop
  | .instr i => encodeWith p i = w &&& ~~~ i.ignoredBits
  | .illegalOpcode | .illegalFunct => True

section EncodesBack
variable {p : EncodingParams} {w : Word}

/-- A branch is taken when its test has succeeded: the encoder writes the number that was tested. -/
theorem EncodesBack.ite {c : Prop} [Decidable c] {d e : DecodeResult} (hd : c → EncodesBack p w d)
    (he : EncodesBack p w e) : EncodesBack p w (if c then d else e) := by
  split
  next hc => exact hd hc
  next => exact he

theorem decodeRtype_encodesBack (hop : (partition w).op = p.opRtype) :
    EncodesBack p w (decodeRtype p (partition w)) :=
  have row {fn : Op6} (hfn : (partition w).funct = fn) := rWord_of_fields hop hfn
  .ite row <| .ite row <| .ite row <| .ite row <| .ite row <| .ite row trivial

/-- Branch by branch in the decoder's order: R format, j, six I-format instructions, lui, lw, sw. -/
theorem decodeFields_encodesBack : EncodesBack p w (decodeFields p (partition w)) :=
  .ite decodeRtype_encodesBack <| .ite jWord_of_fields <|
  .ite iWord_of_fields <| .ite iWord_of_fields <| .ite iWord_of_fields <| .ite iWord_of_fields <|
  .ite iWord_of_fields <| .ite iWord_of_fields <| .ite iWord_of_fields_rs_zero <|
  .ite iWord_of_fields <| .ite iWord_of_fields trivial

end EncodesBack

/-- Settles O2: each branch of the decoder encodes back to the word it decoded. -/
theorem encodeOfDecode : Obligations.EncodeOfDecode := by
  intro p w i h
  have hback : EncodesBack p w (decodeFields p (partition w)) := decodeFields_encodesBack
  rw [← decodeWith, h] at hback
  exact hback

/-! ### The bits that do not matter (R93) -/

/-- Words that agree but for bits `lo` to `hi` have the fields outside those bits in common. -/
theorem extractLsb'_eq_of_agree_outside {w w' : Word} {lo hi : Nat}
    (h : ∀ k < 32, k < lo ∨ hi < k → w'.getLsbD k = w.getLsbD k) (start n : Nat) (hn : start + n ≤ 32)
    (hout : start + n ≤ lo ∨ hi < start) : w'.extractLsb' start n = w.extractLsb' start n := by
  refine extractLsb'_eq_of_bits w' start _ fun k hk => ?_
  rw [h (start + k) (by omega) (by omega), BitVec.getLsbD_extractLsb']
  simp [hk]

/-- Of an R-type word the decoder reads the function code and the three register fields. -/
theorem decodeRtype_congr (p : EncodingParams) {f f' : Fields} (hfunct : f'.funct = f.funct) (hrd : f'.rd = f.rd)
    (hrs : f'.rs = f.rs) (hrt : f'.rt = f.rt) : decodeRtype p f' = decodeRtype p f := by
  simp only [decodeRtype, hfunct, hrd, hrs, hrt]

theorem decodeFields_of_opLui {p : EncodingParams} (hp : p.opcodes.Nodup) {f : Fields} (h : f.op = p.opLui) :
    decodeFields p f = .instr (.lui f.rt f.imm) := by
  obtain ⟨-, -, -, -, -, -, decLui, -⟩ := decodeFields_rows hp f
  exact decLui h

/-- Settles O3: the fields that the decoder reads of an R-type word and of a lui word lie outside the ignored bits. -/
theorem ignoredBitsDoNotMatter : Obligations.IgnoredBitsDoNotMatter := by
  intro p hp w w'
  obtain ⟨hnodup, -⟩ := p.wf_iff.1 hp
  refine ⟨fun hop h => ?_, fun hop h => ?_⟩
  · have field := extractLsb'_eq_of_agree_outside h
    have hop' : (partition w').op = p.opRtype := (field 26 6 (by omega) (by omega)).trans hop
    rw [decodeWith, decodeWith, decodeFields_of_opRtype hop, decodeFields_of_opRtype hop']
    exact decodeRtype_congr p (field 0 6 (by omega) (by omega)) (field 11 5 (by omega) (by omega))
      (field 21 5 (by omega) (by omega)) (field 16 5 (by omega) (by omega))
  · have field := extractLsb'_eq_of_agree_outside h
    have hop' : (partition w').op = p.opLui := (field 26 6 (by omega) (by omega)).trans hop
    have hrt : (partition w').rt = (partition w).rt := field 16 5 (by omega) (by omega)
    have himm : (partition w').imm = (partition w).imm := field 0 16 (by omega) (by omega)
    rw [decodeWith, decodeWith, decodeFields_of_opLui hnodup hop, decodeFields_of_opLui hnodup hop', hrt, himm]

/-! ### The rows of spec/opcode_table.json -/

/-- A field that lies inside the mask is the field of the masked word. -/
theorem extractLsb'_of_masked {w mask row : Word} {start n : Nat} (hmask : mask.extractLsb' start n = BitVec.allOnes n)
    (h : w &&& mask = row) : w.extractLsb' start n = row.extractLsb' start n := by
  rw [← h, BitVec.extractLsb'_and, hmask, BitVec.and_allOnes]

/-- Settles O4: the masked word fixes the opcode, and for the R format the function code. -/
theorem tableRowsDecode : Obligations.TableRowsDecode := by
  intro w
  obtain ⟨decRtype, decAddi, decSlti, decSltiu, decAndi, decOri, decLui, decLw, decSw, decBeq, decJ⟩ :=
    decodeFields_rows (p := Config.encoding) (by decide) (partition w)
  obtain ⟨decAdd, decSub, decAnd, decOr, decSlt, decSltu⟩ :=
    decodeRtype_rows (p := Config.encoding) (by decide) (partition w)
  have op_of_r {row : Word} (h : w &&& 0xFC00003F#32 = row) : (partition w).op = row.extractLsb' 26 6 :=
    extractLsb'_of_masked (by decide) h
  have funct_of_r {row : Word} (h : w &&& 0xFC00003F#32 = row) : (partition w).funct = row.extractLsb' 0 6 :=
    extractLsb'_of_masked (by decide) h
  have op_of {row : Word} (h : w &&& 0xFC000000#32 = row) : (partition w).op = row.extractLsb' 26 6 :=
    extractLsb'_of_masked (by decide) h
  exact ⟨fun h => (decRtype (op_of_r h)).trans (decAdd (funct_of_r h)),
    fun h => (decRtype (op_of_r h)).trans (decSub (funct_of_r h)),
    fun h => (decRtype (op_of_r h)).trans (decAnd (funct_of_r h)),
    fun h => (decRtype (op_of_r h)).trans (decOr (funct_of_r h)),
    fun h => (decRtype (op_of_r h)).trans (decSlt (funct_of_r h)),
    fun h => (decRtype (op_of_r h)).trans (decSltu (funct_of_r h)),
    fun h => decAddi (op_of h), fun h => decSlti (op_of h), fun h => decSltiu (op_of h), fun h => decAndi (op_of h),
    fun h => decOri (op_of h), fun h => decLui (op_of h), fun h => decLw (op_of h), fun h => decSw (op_of h),
    fun h => decBeq (op_of h), fun h => decJ (op_of h)⟩

/-! ### Words that halt (R91, R92, R95) -/

/-- Of the `2 ^ n` numbers of `n` bits, those that a list without repetitions leaves out. -/
theorem exists_list_of_not_mem {n : Nat} {xs : List (BitVec n)} (hxs : xs.Nodup) :
    ∃ l : List (BitVec n), l.Nodup ∧ l.length = 2 ^ n - xs.length ∧ ∀ x, x ∈ l ↔ x ∉ xs := by
  refine ⟨(xs.toFinsetᶜ).toList, Finset.nodup_toList _, ?_, fun x => by simp⟩
  rw [Finset.length_toList, Finset.card_compl, List.toFinset_card_of_nodup hxs,
    Fintype.card_congr BitVec.equivFin.toEquiv, Fintype.card_fin]

/-- A step and a cycle halt together, for one cause (R12). -/
theorem stepWith_fault_iff {p : EncodingParams} (hp : p.wf = true) (s : State) (c : Fault) :
    stepWith p s = .fault c ↔ (cycleWith p s).halt = some c := by
  rw [stepRefinesCycle p hp s, CycleOut.result]
  cases (cycleWith p s).halt <;> simp [raiseHalt]

/-- A cycle that halts is back in the state it began with (R213). -/
theorem cycleWith_of_halt {p : EncodingParams} {s : State} {c : Fault} (h : (cycleWith p s).halt = some c) :
    cycleWith p s = ⟨s, some c⟩ := by
  unfold cycleWith at h ⊢
  cases hs : stages p s with
  | ok t => rw [hs] at h; cases h
  | error cause => rw [hs] at h; cases h; rfl

theorem cycleWith_of_stepWith_fault {p : EncodingParams} (hp : p.wf = true) {s : State} {c : Fault}
    (h : stepWith p s = .fault c) : cycleWith p s = ⟨s, some c⟩ :=
  cycleWith_of_halt ((stepWith_fault_iff hp s c).1 h)

theorem stepWith_of_unsupported_opcode {p : EncodingParams} {s : State} (hpc : addrOK s.pc = true)
    (hop : (partition s.fetched).op ∉ p.opcodes) : stepWith p s = .fault .opcode := by
  rw [stepWith_of_fetched p hpc, decodeWith, decodeFields_unsupported hop]; rfl

theorem stepWith_of_unsupported_funct {p : EncodingParams} {s : State} (hpc : addrOK s.pc = true)
    (hop : (partition s.fetched).op = p.opRtype) (hfn : (partition s.fetched).funct ∉ p.functs) :
    stepWith p s = .fault .funct := by
  rw [stepWith_of_fetched p hpc, decodeWith, decodeFields_of_opRtype hop, decodeRtype_unsupported hfn]; rfl

/-- The execution of an instruction can fail at a data address alone. -/
theorem exec_fault {i : Instr} {s : State} {c : Fault} (h : exec i s = .fault c) : c = .dataAddr := by
  obtain ⟨e, hallowed, hexec⟩ := exec_effect i s
  rw [hexec s (.refl _ s)] at h
  cases e with
  | halt cause => cases h; exact hallowed
  | write | store | goto => cases h

theorem ite_ne {α : Type} {c : Prop} [Decidable c] {a b r : α} (ha : a ≠ r) (hb : b ≠ r) :
    (if c then a else b) ≠ r := by
  split <;> assumption

/-- Only under the R-type opcode is a function code illegal. -/
theorem op_of_illegalFunct {p : EncodingParams} {f : Fields} (h : decodeFields p f = .illegalFunct) :
    f.op = p.opRtype := by
  by_contra hop
  revert h
  rw [decodeFields, if_neg hop]
  repeat' refine ite_ne ?_ ?_
  all_goals nofun

/-- Halt(FUNCT) comes from an R-type word. -/
theorem op_of_stepWith_funct {p : EncodingParams} {s : State} (h : stepWith p s = .fault .funct) :
    (partition s.fetched).op = p.opRtype := by
  obtain ⟨-, hs⟩ | ⟨-, -, hs⟩ | ⟨-, hd, -⟩ | ⟨-, i, -, hs⟩ := stepWith_cases p s
  · rw [hs] at h; cases h
  · rw [hs] at h; cases h
  · exact op_of_illegalFunct hd
  · cases exec_fault (hs.symm.trans h)

/-- Settles O6: an opcode outside the table has no control vector, and step and cycle halt together. -/
theorem unrecognisedOpcodeHalts : Obligations.UnrecognisedOpcodeHalts := by
  intro p hp
  obtain ⟨hnodup, -, -, h3F, -, -⟩ := p.wf_iff.1 hp
  obtain ⟨l, hl, hlength, hmem⟩ := exists_list_of_not_mem hnodup
  refine ⟨⟨l, hl, hlength, (hmem _).2 h3F, hmem⟩, fun op => decodeRom_unsupported, fun s hpc hop => ?_⟩
  have hstep := stepWith_of_unsupported_opcode hpc hop
  exact ⟨hstep, cycleWith_of_stepWith_fault hp hstep⟩

/-- Settles O7: the ALU block and the decoder reject the same function codes, and look at them for R-type words alone. -/
theorem unrecognisedFunctHalts : Obligations.UnrecognisedFunctHalts := by
  intro p hp
  obtain ⟨-, -, -, -, hnodup, -⟩ := p.wf_iff.1 hp
  refine ⟨exists_list_of_not_mem hnodup, fun data1 data2 ext fn src hfn => ?_, fun s hpc hop hfn => ?_, fun s hop => ?_⟩
  · rw [aluWithZeroFlag, resolveSelector, functSelector_unsupported hfn]
  · have hstep := stepWith_of_unsupported_funct hpc hop hfn
    exact ⟨hstep, cycleWith_of_stepWith_fault hp hstep⟩
  · have hstep : stepWith p s ≠ .fault .funct := mt op_of_stepWith_funct hop
    exact ⟨hstep, mt (stepWith_fault_iff hp s .funct).2 hstep⟩

/-- Settles O8: 0x00 is the R-type opcode and no function code, and 0x3F is no opcode. -/
theorem allZeroAndAllOneWordsHalt : Obligations.AllZeroAndAllOneWordsHalt := by
  intro p hp s hpc
  obtain ⟨-, hrtype, -, h3F, -, h00⟩ := p.wf_iff.1 hp
  refine ⟨fun hw => stepWith_of_unsupported_funct hpc ?_ ?_, fun hw => stepWith_of_unsupported_opcode hpc ?_⟩ <;> rw [hw]
  · exact hrtype.symm
  · exact h00
  · exact h3F

/-! ### A jump out of the address range (R88, R200) -/

theorem stepWith_fetchAddr_iff (p : EncodingParams) (s : State) :
    stepWith p s = .fault .fetchAddr ↔ addrOK s.pc = false :=
  ⟨addrOK_of_fetchAddr, stepWith_of_bad_pc p⟩

/-- R88 as arithmetic. -/
theorem toNat_jumpTarget (pc : Word) (jt : Target26) :
    (jumpTarget pc jt).toNat = (pc.toNat + 4) % 2 ^ 32 / 2 ^ 28 * 2 ^ 28 + 4 * jt.toNat := by
  rw [jumpTarget, BitVec.toNat_append, BitVec.toNat_append, ← Nat.shiftLeft_add_eq_or_of_lt jt.isLt,
    ← Nat.shiftLeft_add_eq_or_of_lt (0#2).isLt, BitVec.extractLsb'_toNat, Nat.shiftLeft_eq, Nat.shiftLeft_eq,
    Nat.shiftRight_eq_div_pow, pcPlus4, BitVec.toNat_add]
  simp only [BitVec.toNat_ofNat]
  omega

/-- Settles O55: `pc + 4` is too small to have any of its top four bits set. -/
theorem jumpOutOfRangeHaltsNextFetch : Obligations.JumpOutOfRangeHaltsNextFetch := by
  intro p s jt hpc
  obtain ⟨-, hle⟩ := (addrOK_iff s.pc).1 hpc
  have htarget : (jumpTarget s.pc jt).toNat = 4 * jt.toNat := by rw [toNat_jumpTarget]; omega
  refine ⟨s.setPc (jumpTarget s.pc jt), rfl, htarget, ?_⟩
  rw [stepWith_fetchAddr_iff, ← Bool.not_eq_true, addrOK_iff, State.setPc_pc, htarget]
  omega

end Sys2Proof.Machine

/-! ### The datapath blocks (40_datapath_blocks.md)

Each block is said once in arithmetic or by cases, for every setting of its ports, and an obligation puts the facts of its
block together. -/

namespace Sys2Proof.Machine

/-! ### Operand and selector resolution (R120, R121) -/

/-- The function-code table at the supported codes; distinct numbers keep a code from being hidden by an earlier one. -/
theorem functSelector_rows {p : EncodingParams} (hp : p.functs.Nodup) :
    functSelector p p.fnAdd = .ok .add ∧ functSelector p p.fnSub = .ok .sub ∧ functSelector p p.fnAnd = .ok .and ∧
    functSelector p p.fnOr = .ok .or ∧ functSelector p p.fnSlt = .ok .slt ∧ functSelector p p.fnSltu = .ok .sltu := by
  simp only [EncodingParams.functs, List.nodup_cons, List.mem_cons, not_or] at hp
  simp [functSelector, hp, Ne.symm]

/-- A function code selects one of six operations. -/
theorem functSelector_ok_mem {p : EncodingParams} {fn : Op6} {sel : AluSel} (h : functSelector p fn = .ok sel) :
    sel ∈ [AluSel.add, .sub, .and, .or, .slt, .sltu] := by
  unfold functSelector at h
  split_ifs at h <;> cases h <;> decide

section AluBlock
variable {p : EncodingParams} (data1 data2 ext : Word) {fn : Op6} {aluOp : AluOp} (src : AluSrc)

/-- A resolved selector is applied to the source register and operand B. -/
theorem aluWithZeroFlag_of_selector {sel : AluSel} (h : resolveSelector p aluOp fn = .ok sel) :
    aluWithZeroFlag p data1 data2 ext fn aluOp src = .ok (alu sel data1 (operandB src data2 ext)) := by
  rw [aluWithZeroFlag, h]

theorem aluWithZeroFlag_of_no_selector {cause : Fault} (h : resolveSelector p aluOp fn = .error cause) :
    aluWithZeroFlag p data1 data2 ext fn aluOp src = .error cause := by
  rw [aluWithZeroFlag, h]

end AluBlock

/-- Settles O15: the ALU runs under the selector of the `ALUOp` port or of the function code's row of the table. -/
theorem operandAndSelectorResolution : Obligations.OperandAndSelectorResolution := by
  intro p hp data1 data2 ext fn sel
  obtain ⟨-, -, -, -, hfn, -⟩ := p.wf_iff.1 hp
  obtain ⟨selAdd, selSub, selAnd, selOr, selSlt, selSltu⟩ := functSelector_rows hfn
  have hdirect (src : AluSrc) := aluWithZeroFlag_of_selector (p := p) (fn := fn) data1 data2 ext src
    (aluOp := .direct sel) rfl
  have hfunct (src : AluSrc) {fn : Op6} {sel : AluSel} (h : functSelector p fn = .ok sel) :=
    aluWithZeroFlag_of_selector data1 data2 ext src (aluOp := .useFunct) h
  refine ⟨hdirect .imm, hdirect .reg, fun src => ⟨hfunct src selAdd, hfunct src selSub, hfunct src selAnd,
    hfunct src selOr, hfunct src selSlt, hfunct src selSltu, fun h => ?_⟩, fun h => ?_, fun h => ?_⟩
  · exact aluWithZeroFlag_of_no_selector data1 data2 ext src (functSelector_unsupported h)
  · exact absurd (functSelector_ok_mem h) (by decide)
  · exact absurd (functSelector_ok_mem h) (by decide)

/-! ### The zero flag and the selectors an instruction presents (R123, R124) -/

theorem alu_zero_iff (sel : AluSel) (a b : Word) : (alu sel a b).2 = true ↔ (alu sel a b).1 = 0#32 :=
  beq_iff_eq

/-- Without a branch nothing looks at the zero flag. -/
theorem pcSequencer_no_branch (pc : Word) (jt : Target26) (ext : Word) (jump zero : Bool) :
    pcSequencer pc jt ext jump false zero = if jump then jumpTarget pc jt else pcPlus4 pc := rfl

theorem AluSel.ofPort_of_eight_le {n : BitVec 4} (h : 8 ≤ n.toNat) : AluSel.ofPort n = .unrecognised := by
  revert n
  decide

/-- The selectors of port numbers 0 to 6. -/
def AluSel.presented : List AluSel := [.add, .sub, .slt, .sltu, .and, .or, .shl16]

theorem AluSel.exists_port_of_presented :
    ∀ sel ∈ AluSel.presented, ∃ n : BitVec 4, n.toNat ≤ 6 ∧ AluSel.ofPort n = sel := by
  decide

/-- The answer of the control table, if it is a row, leaves the selector to the function code or presents one itself. -/
def PresentsSelector : Except Fault ControlVector → Prop
  | .ok c    => c.aluOp ∈ AluOp.useFunct :: AluSel.presented.map .direct
  | .error _ => True

theorem PresentsSelector.ite {c : Prop} [Decidable c] {d e : Except Fault ControlVector} (hd : PresentsSelector d)
    (he : PresentsSelector e) : PresentsSelector (if c then d else e) := by
  split <;> assumption

theorem PresentsSelector.row {c : ControlVector} (h : c.aluOp ∈ AluOp.useFunct :: AluSel.presented.map .direct) :
    PresentsSelector (.ok c) := h

theorem decodeRom_presentsSelector (p : EncodingParams) (op : Op6) : PresentsSelector (decodeRom p op) := by
  unfold decodeRom
  iterate 11 refine .ite (.row (by decide)) ?_
  exact trivial

/-- An instruction presents a selector of `AluSel.presented`. -/
theorem resolveSelector_presented {p : EncodingParams} {op fn : Op6} {c : ControlVector} {sel : AluSel}
    (hrom : decodeRom p op = .ok c) (hsel : resolveSelector p c.aluOp fn = .ok sel) : sel ∈ AluSel.presented := by
  have hrow := decodeRom_presentsSelector p op
  rw [hrom] at hrow
  obtain h | ⟨sel', hmem, h⟩ := (List.mem_cons.1 hrow).imp_right List.mem_map.1
  · have hsub : [AluSel.add, .sub, .and, .or, .slt, .sltu] ⊆ AluSel.presented := by decide
    rw [h] at hsel
    exact hsub (functSelector_ok_mem hsel)
  · rw [← h] at hsel
    cases hsel
    exact hmem

/-- Settles O17: the flag is a test of the result, and the control and function-code tables hold selectors of port numbers
0 to 6 alone. -/
theorem zeroFlagAndUnrecognisedSelector : Obligations.ZeroFlagAndUnrecognisedSelector := by
  refine ⟨alu_zero_iff, by decide, fun pc jt ext jump z z' => ?_, fun n a b hn => ?_, fun p op fn c sel hrom hsel => ?_⟩
  · rw [pcSequencer_no_branch, pcSequencer_no_branch]
  · rw [AluSel.ofPort_of_eight_le hn]
    rfl
  · exact AluSel.exists_port_of_presented sel (resolveSelector_presented hrom hsel)

/-! ### Fetch and partition (R113, R114) -/

/-- The check of R52 in the spec's own three conditions. -/
theorem addrOK_iff_three (a : Word) : addrOK a = true ↔ a.toNat % 4 = 0 ∧ a.toNat ≤ 0xFFFF ∧ a.toNat / 4 < 16384 := by
  obtain ⟨h, -⟩ := addressValidity
  exact (h a).1

theorem fetchUnit_bad_pc (m : Memory) {pc : Word} (h : addrOK pc = false) : fetchUnit pc m = .error .fetchAddr := by
  rw [fetchUnit, h]
  rfl

theorem memRead_eq_word (m : Memory) (a : Word) : memRead m a = Memory.word m (a.toNat / 4) := by
  rw [memRead, wordIndex_eq_div]

/-- Settles O10: the check decides, and the corner cases are evaluations of it. -/
theorem fetchUnitReadsOrHalts : Obligations.FetchUnitReadsOrHalts := by
  refine ⟨fun pc m => ⟨fun h => ?_, fun h => ?_⟩, fun m => ⟨?_, ?_, ?_, ?_, ?_⟩⟩
  · rw [fetchUnit_ok m ((addrOK_iff_three pc).2 h), memRead_eq_word]
  · rw [← addrOK_iff_three, Bool.not_eq_true] at h
    exact fetchUnit_bad_pc m h
  · exact fetchUnit_bad_pc m (by decide)
  · exact fetchUnit_bad_pc m (by decide)
  · exact fetchUnit_ok m (by decide)
  · exact fetchUnit_bad_pc m (by decide)
  · exact fetchUnit_bad_pc m (by decide)

theorem toNat_extractLsb'_eq_div_mod {w : Nat} (a : BitVec w) (start len : Nat) :
    (a.extractLsb' start len).toNat = a.toNat / 2 ^ start % 2 ^ len := by
  rw [BitVec.extractLsb'_toNat, Nat.shiftRight_eq_div_pow]

/-- Settles O11: a field is a quotient of the word cut to the field's width, and the opcode, at the top, needs no cut. -/
theorem partitionCutsFields : Obligations.PartitionCutsFields := by
  refine ⟨fun w => ?_, by decide⟩
  have hop : w.toNat / 2 ^ 26 < 2 ^ 6 := by
    have := w.isLt
    omega
  simp only [partition, toNat_extractLsb'_eq_div_mod, Nat.mod_eq_of_lt hop, Nat.pow_zero, Nat.div_one, and_self]

/-! ### The control table (R115) -/

/-- Settles O12: distinct opcode numbers give every opcode its own row. -/
theorem controlTable : Obligations.ControlTable := by
  intro p hp
  obtain ⟨hop, -, -, -, -, -⟩ := p.wf_iff.1 hp
  exact decodeRom_rows hop

/-! ### Sign extension (R119) -/

/-- The source's OR with 0xFFFF0000 is sign extension. -/
theorem signExtender_eq_signExtend (imm : Imm16) : signExtender imm = imm.signExtend 32 := by
  apply BitVec.eq_of_getLsbD_eq
  intro k hk
  rw [signExtender, BitVec.getLsbD_signExtend, BitVec.msb_eq_getLsbD_last]
  cases imm.getLsbD 15 <;> interval_cases k <;> simp

theorem toNat_signExtender (imm : Imm16) :
    (signExtender imm).toNat = imm.toNat + if imm.getLsbD 15 then 0xFFFF0000 else 0 := by
  rw [signExtender_eq_signExtend, BitVec.toNat_signExtend, BitVec.msb_eq_getLsbD_last,
    BitVec.toNat_setWidth_of_le (by decide)]

/-- Settles O14: value, bits and sign are those of `BitVec.signExtend`. -/
theorem signExtension : Obligations.SignExtension := by
  refine ⟨fun imm => ⟨fun h => ?_, fun h => ?_, fun k hk => ?_, ?_⟩, by decide⟩
  · rw [toNat_signExtender, h]
    rfl
  · rw [← BitVec.toNat_inj, toNat_signExtender, if_pos h, BitVec.toNat_ofNat]
    omega
  · rw [signExtender_eq_signExtend, BitVec.getLsbD_signExtend, BitVec.msb_eq_getLsbD_last, decide_eq_true hk,
      Bool.true_and]
  · rw [signExtender_eq_signExtend, BitVec.toInt_signExtend_of_le (by decide)]

/-! ### The ALU operations (R122) -/

theorem toNat_oneIf (b : Bool) : (oneIf b).toNat = if b then 1 else 0 := by
  cases b <;> rfl

theorem sub_eq_ofInt (a b : Word) : a - b = BitVec.ofInt 32 ((a.toNat : Int) - (b.toNat : Int)) := by
  apply BitVec.eq_of_toInt_eq
  rw [BitVec.toInt_sub, BitVec.toInt_ofInt, BitVec.toInt_eq_toNat_bmod, BitVec.toInt_eq_toNat_bmod,
    ← Int.sub_bmod]

/-- Settles O16: each operation is the machine-word operation of the library, as arithmetic. -/
theorem aluOperations : Obligations.AluOperations := by
  refine ⟨fun a b => ⟨?_, ?_, ?_, ?_, fun k => ?_, fun k => ?_, ?_, ?_⟩, by decide⟩
  · exact BitVec.toNat_add a b
  · exact sub_eq_ofInt a b
  · simp only [alu, aluResult, toNat_oneIf, decide_eq_true_eq]
  · simp only [alu, aluResult, toNat_oneIf, decide_eq_true_eq]
  · exact BitVec.getLsbD_and
  · exact BitVec.getLsbD_or
  · simp only [alu, aluResult, BitVec.toNat_shiftLeft, Nat.shiftLeft_eq]
    omega
  · exact BitVec.toNat_not

/-! ### The memory unit (R125 to R127) -/

theorem memUnit_idle (m : Memory) (addr wdata : Word) : memUnit m false false addr wdata = .ok (m, 0#32) := rfl

/-- With both flags the read sees the word just written. -/
theorem memUnit_write_read (m : Memory) {addr : Word} (wdata : Word) (h : addrOK addr = true) :
    memUnit m true true addr wdata = .ok (memWrite m addr wdata, wdata) := by
  simp [memUnit, h, memRead_memWrite_same]

theorem addrOK_iff_mod (a : Word) : addrOK a = true ↔ a.toNat % 4 = 0 ∧ a.toNat ≤ 0xFFFF := by
  rw [addrOK_iff, Nat.dvd_iff_mod_eq_zero]

/-- Settles O18: any flag brings the one check of R52, and no flag brings none. -/
theorem memoryUnitChecksFlaggedAccessesOnly : Obligations.MemoryUnitChecksFlaggedAccessesOnly := by
  intro m addr wdata
  refine ⟨memUnit_idle m addr wdata, fun write read hflag => ⟨?_, fun h => ?_⟩⟩
  · rw [memUnit_ok_iff m addr wdata hflag, addrOK_iff_mod]
  · rw [← addrOK_iff_mod, Bool.not_eq_true] at h
    exact memUnit_bad_address m wdata h hflag

/-- Settles O19: both writing accesses leave the memory of one `memWrite`. -/
theorem memoryUnitWritesThenReads : Obligations.MemoryUnitWritesThenReads := by
  intro m addr wdata h
  refine ⟨?_, memWrite m addr wdata, fun k => ?_, memUnit_write_read m wdata h, 0#32, memUnit_write m wdata h⟩
  · rw [memUnit_read m wdata h, memRead_eq_word]
  · rw [memWrite, Memory.word_setWord, wordIndex_eq_div]
    exact if_congr eq_comm rfl rfl

/-! ### The register write port (R128) -/

/-- With RegWrite the port makes one register write: the selected value to the selected index. -/
theorem regWritePort_write (x : RegFile) (rt rd : RegIdx) (memdata result : Word) (d : RegDst) (m : MemToReg) :
    regWritePort x rt rd memdata result true d m =
      RegFile.write x (if d = .rd then rd else rt) (if m = .mem then memdata else result) := by
  cases d <;> cases m <;> rfl

/-- Settles O20: the port's one write obeys the laws of the register file, and a halted cycle has not reached the port. -/
theorem registerWritePort : Obligations.RegisterWritePort := by
  refine ⟨fun x rt rd memdata result d m => ⟨rfl, fun idx val hidx hval => ?_⟩, fun p s h => ?_⟩
  · rw [regWritePort_write, ← hidx, ← hval]
    refine ⟨fun h0 => ?_, fun hne => ?_, fun q hq => ?_⟩
    · rw [h0, RegFile.write_zero]
    · rw [RegFile.read_write, if_pos ⟨rfl, hne⟩]
    · rw [RegFile.read_write, if_neg fun h => hq h.1]
  · obtain ⟨cause, hcause⟩ := Option.ne_none_iff_exists'.1 h
    rw [cycleWith_of_halt hcause]

/-! ### The pc sequencer (R129) -/

theorem toNat_pcPlus4 (pc : Word) : (pcPlus4 pc).toNat = (pc.toNat + 4) % 2 ^ 32 :=
  BitVec.toNat_add pc 4#32

/-- R87 as arithmetic. -/
theorem toNat_branchTarget (pc ext : Word) :
    (branchTarget pc ext).toNat = (pc.toNat + 4 + ext.toNat * 4) % 2 ^ 32 := by
  rw [branchTarget, BitVec.toNat_add, toNat_pcPlus4, BitVec.toNat_shiftLeft, Nat.shiftLeft_eq, ← Nat.add_mod]

/-- Settles O21: the three cases in their order of precedence, each with the arithmetic of its target
(`pcSequencer` itself names the block). -/
theorem pcSequencer_arithmetic : Obligations.PcSequencer := by
  refine ⟨fun pc jt ext branch zero => ⟨?_, toNat_branchTarget pc ext, fun h => ?_⟩, fun _ => rfl, fun _ _ _ => rfl,
    fun _ _ _ => rfl⟩
  · rw [Nat.mul_comm jt.toNat]
    exact toNat_jumpTarget pc jt
  · simp only [pcSequencer, h, toNat_pcPlus4, Bool.false_eq_true, if_false]

/-! ### A step runs the decoded instruction (R110) -/

theorem stepWith_of_decoded {p : EncodingParams} {s : State} {i : Instr} (hpc : addrOK s.pc = true)
    (hi : decodeWith p s.fetched = .instr i) : stepWith p s = exec i s := by
  rw [stepWith_of_fetched p hpc, hi, runDecoded]

theorem decodeTableWord_eq_some {nbits w : Nat} {i : Instr} (h : decodeTableWord nbits w = some i) :
    decode (tableWord nbits w) = .instr i := by
  unfold decodeTableWord at h
  cases hd : decode (tableWord nbits w) <;> rw [hd] at h <;> cases h
  rfl

theorem withFetchWord_eq_store {s : State} (nbits w : Nat) (hpc : addrOK s.pc = true) :
    s.withFetchWord nbits w = s.store s.pc (tableWord nbits w) :=
  if_pos hpc

theorem fetched_store_pc (s : State) (v : Word) : (s.store s.pc v).fetched = v :=
  memRead_memWrite_same s.mem s.pc v

/-- Settles O38: the placed word is the word that is fetched, at an unchanged pc. -/
theorem stepRunsDecoded : Obligations.StepRunsDecoded := by
  refine ⟨fun p s i => stepWith_of_decoded, fun s nbits w i hpc hi => ?_⟩
  rw [withFetchWord_eq_store nbits w hpc]
  refine stepWith_of_decoded hpc ?_
  rw [fetched_store_pc]
  exact decodeTableWord_eq_some hi

end Sys2Proof.Machine

/-! ### The R-type instructions (41_rtype_alu.md)

All six complete through `aluRegReg`, whose result and frame are stated once; an instruction's own statement says what its
ALU operation is on numbers or bits. -/

namespace Sys2Proof.Machine

/-! ### A register write that advances (R170) -/

/-- A register write followed by an advance has the result and the frame of `WritesReg`, for register 0 too (R22). -/
theorem writesReg_writeReg_advance (s : State) (r : RegIdx) (v : Word) :
    WritesReg s (s.writeReg r v).advance r v := by
  refine ⟨?_, fun q hq => ?_, fun _ => rfl, rfl⟩
  · rw [State.readReg_advance, State.readReg_writeReg]
    by_cases hr : r = 0#5 <;> simp [hr]
  · rw [State.readReg_advance, State.readReg_writeReg, if_neg fun h => hq h.1]

/-- What every R-type instruction does: its destination takes the ALU's result on the old source values. -/
theorem aluRegReg_writesReg (sel : AluSel) (rd rs rt : RegIdx) (s : State) :
    ∃ t, aluRegReg sel rd rs rt s = .next t ∧ WritesReg s t rd (alu sel (s.readReg rs) (s.readReg rt)).1 :=
  ⟨_, aluRegReg_next sel rd rs rt s, writesReg_writeReg_advance s rd _⟩

/-! ### The cycle of an R-type word -/

/-- A fetched R-type word with a supported function code runs its ALU operation on the register fields. -/
theorem stepWith_of_functSelector {p : EncodingParams} {s : State} {sel : AluSel} (hpc : addrOK s.pc = true)
    (hop : (partition s.fetched).op = p.opRtype) (hsel : functSelector p (partition s.fetched).funct = .ok sel) :
    stepWith p s =
      aluRegReg sel (partition s.fetched).rd (partition s.fetched).rs (partition s.fetched).rt s := by
  obtain ⟨-, hf⟩ | ⟨i, sel', hd, hf, hexec⟩ := decodeRtype_functSelector_cases p (partition s.fetched)
  · rw [hf] at hsel
    cases hsel
  · obtain rfl : sel' = sel := Except.ok.inj (hf.symm.trans hsel)
    rw [stepWith_of_decoded hpc ((decodeFields_of_opRtype hop).trans hd), hexec]

/-- Settles O40: a row of the function-code table fixes the ALU operation, and every operation is one register write. -/
theorem rTypeCycle : Obligations.RTypeCycle := by
  intro p hp
  obtain ⟨hopcodes, -, -, -, hfuncts, -⟩ := p.wf_iff.1 hp
  obtain ⟨romRtype, -⟩ := decodeRom_rows hopcodes
  obtain ⟨selAdd, selSub, selAnd, selOr, selSlt, selSltu⟩ := functSelector_rows hfuncts
  refine ⟨romRtype, fun s => ⟨stepWith_of_bad_pc p, ?_⟩⟩
  rintro hpc _ rfl hop
  refine ⟨stepWith_of_unsupported_funct hpc hop, fun q hq hfn => ?_⟩
  have hsel : functSelector p q.1 = .ok q.2 := by
    simp only [List.mem_cons, List.not_mem_nil, or_false] at hq
    obtain rfl | rfl | rfl | rfl | rfl | rfl := hq
    exacts [selAdd, selSub, selAnd, selOr, selSlt, selSltu]
  rw [stepWith_of_functSelector hpc hop (hfn ▸ hsel)]
  exact aluRegReg_writesReg ..

/-! ### Words of the spec's listings -/

theorem decode_of_encode_eq {i : Instr} {w : Word} (h : encode i = w) : decode w = .instr i :=
  h ▸ decodeOfEncode Config.encoding (by decide) i

/-- Settles O5: each listed word is the encoder's word of its instruction. -/
theorem listedWordsDecode : Obligations.ListedWordsDecode := by
  unfold Obligations.ListedWordsDecode
  and_intros <;> exact decode_of_encode_eq (by decide)

/-! ### The six results (R171 to R176) -/

theorem add_eq_ofNat (a b : Word) : a + b = BitVec.ofNat 32 (a.toNat + b.toNat) := by
  rw [BitVec.ofNat_add, BitVec.ofNat_toNat, BitVec.ofNat_toNat, BitVec.setWidth_eq, BitVec.setWidth_eq]

theorem oneIf_decide (c : Prop) [Decidable c] : oneIf (decide c) = if c then 1#32 else 0#32 := by
  simp only [oneIf, decide_eq_true_eq]

/-- Settles O22: the word sum is the sum of the numbers modulo `2^32`. -/
theorem addResult : Obligations.AddResult := by
  intro rd rs rt s
  rw [← add_eq_ofNat]
  exact aluRegReg_writesReg .add rd rs rt s

/-- Settles O23: the word difference is the difference of the numbers modulo `2^32`. -/
theorem subResult : Obligations.SubResult := by
  intro rd rs rt s
  rw [← sub_eq_ofInt]
  exact aluRegReg_writesReg .sub rd rs rt s

/-- Settles O24: the result is the word AND, which the library knows bit by bit. -/
theorem andResult : Obligations.AndResult := by
  intro rd rs rt s
  obtain ⟨t, hexec, hwrites⟩ := aluRegReg_writesReg .and rd rs rt s
  exact ⟨t, _, hexec, hwrites, fun _ => BitVec.getLsbD_and⟩

/-- Settles O25: the result is the word OR, which the library knows bit by bit. -/
theorem orResult : Obligations.OrResult := by
  intro rd rs rt s
  obtain ⟨t, hexec, hwrites⟩ := aluRegReg_writesReg .or rd rs rt s
  exact ⟨t, _, hexec, hwrites, fun _ => BitVec.getLsbD_or⟩

/-- Settles O26: `oneIf` of the signed comparison is its 1 or 0. -/
theorem sltResult : Obligations.SltResult := by
  intro rd rs rt s
  rw [← oneIf_decide]
  exact aluRegReg_writesReg .slt rd rs rt s

/-- Settles O27: `oneIf` of the unsigned comparison is its 1 or 0. -/
theorem sltuResult : Obligations.SltuResult := by
  intro rd rs rt s
  rw [← oneIf_decide]
  exact aluRegReg_writesReg .sltu rd rs rt s

end Sys2Proof.Machine

/-! ### The immediate ALU instructions (42_itype_alu.md)

All six complete through `aluRegImm`, whose result and frame are stated once; an instruction's own statement says what its
ALU operation is on the sign-extended immediate. -/

namespace Sys2Proof.Machine

/-! ### The cycle of an immediate ALU word (R180) -/

/-- What every immediate ALU instruction does: `rt` takes the ALU's result on the old source value and the extended
immediate. -/
theorem aluRegImm_writesReg (sel : AluSel) (rt rs : RegIdx) (imm : Imm16) (s : State) :
    ∃ t, aluRegImm sel rt rs imm s = .next t ∧ WritesReg s t rt (alu sel (s.readReg rs) (signExtender imm)).1 :=
  ⟨_, aluRegImm_next sel rt rs imm s, writesReg_writeReg_advance s rt _⟩

/-- A fetched word in an immediate ALU row of the control table runs that row's operation on its own fields. For lui this
holds of every `rs` field, since stages 6 to 9 read the register the field names and the operation ignores it (R93). -/
theorem stepWith_of_decodeRom_aluImm {p : EncodingParams} (hp : p.opcodes.Nodup) {s : State} {sel : AluSel}
    (hpc : addrOK s.pc = true) (hrom : decodeRom p (partition s.fetched).op = .ok (.aluImm sel)) :
    stepWith p s =
      aluRegImm sel (partition s.fetched).rt (partition s.fetched).rs (partition s.fetched).imm s := by
  rw [stepWith_of_fetched p hpc, decodeWith, runDecoded_decodeFields hp, hrom]
  exact executeStages_aluImm p s (partition s.fetched) sel

/-- Settles O41: a row of the control table fixes the ALU operation, and every operation is one register write. -/
theorem iTypeCycle : Obligations.ITypeCycle := by
  intro p hp q hq
  obtain ⟨hopcodes, -⟩ := p.wf_iff.1 hp
  obtain ⟨-, romAddi, romSlti, romSltiu, romAndi, romOri, romLui, -⟩ := decodeRom_rows hopcodes
  have hrom : decodeRom p q.1 = .ok (.aluImm q.2) := by
    simp only [List.mem_cons, List.not_mem_nil, or_false] at hq
    obtain rfl | rfl | rfl | rfl | rfl | rfl := hq
    exacts [romAddi, romSlti, romSltiu, romAndi, romOri, romLui]
  refine ⟨hrom, fun s => ⟨stepWith_of_bad_pc p, ?_⟩⟩
  rintro hpc _ rfl hop
  rw [stepWith_of_decodeRom_aluImm hopcodes hpc (hop ▸ hrom)]
  exact aluRegImm_writesReg ..

/-! ### The extended immediate as a number and as bits -/

theorem toInt_signExtender (imm : Imm16) : (signExtender imm).toInt = imm.toInt := by
  rw [signExtender_eq_signExtend, BitVec.toInt_signExtend_of_le (by decide)]

/-- R183's reading of the extended immediate: 0x8000 to 0xFFFF stand for 0xFFFF8000 to 0xFFFFFFFF. -/
theorem toNat_signExtender_eq_ite (imm : Imm16) :
    (signExtender imm).toNat = if imm.toNat < 0x8000 then imm.toNat else imm.toNat + 0xFFFF0000 := by
  have hsign : imm.getLsbD 15 = decide (0x8000 ≤ imm.toNat) := BitVec.msb_eq_decide imm
  simp only [toNat_signExtender, hsign, decide_eq_true_eq]
  split_ifs <;> omega

/-- Bit 15 of the immediate fills the upper half (R184, R185). -/
theorem getLsbD_signExtender (imm : Imm16) {k : Nat} (hk : k < 32) :
    (signExtender imm).getLsbD k = imm.getLsbD (if k < 16 then k else 15) := by
  obtain ⟨h, -⟩ := signExtension
  obtain ⟨-, -, hbits, -⟩ := h imm
  rw [hbits k hk, apply_ite imm.getLsbD]

/-- The word sum with the extended immediate is the sum of the signed numbers modulo `2^32`. -/
theorem add_signExtender_eq_ofInt (a : Word) (imm : Imm16) :
    a + signExtender imm = BitVec.ofInt 32 (a.toInt + imm.toInt) := by
  rw [BitVec.ofInt_add, BitVec.ofInt_toInt, ← toInt_signExtender, BitVec.ofInt_toInt]

/-- A shift by 16 drops what sign extension put into the upper half. -/
theorem signExtender_shiftLeft_16 (imm : Imm16) :
    signExtender imm <<< 16 = BitVec.ofNat 32 (imm.toNat * 65536) := by
  apply BitVec.eq_of_toNat_eq
  rw [BitVec.toNat_shiftLeft, BitVec.toNat_ofNat, toNat_signExtender, Nat.shiftLeft_eq]
  split_ifs <;> omega

/-! ### The six results (R181 to R186) -/

/-- Settles O28: the word sum is the sum of the signed numbers modulo `2^32`. -/
theorem addiResult : Obligations.AddiResult := by
  intro rt rs imm s
  rw [← add_signExtender_eq_ofInt]
  exact aluRegImm_writesReg .add rt rs imm s

/-- Settles O29: sign extension keeps the signed number that slti compares with. -/
theorem sltiResult : Obligations.SltiResult := by
  intro rt rs imm s
  rw [← toInt_signExtender, ← oneIf_decide]
  exact aluRegImm_writesReg .slt rt rs imm s

/-- Settles O30: the unsigned comparison is with the number of the extended immediate. -/
theorem sltiuResult : Obligations.SltiuResult := by
  intro rt rs imm s
  rw [← toNat_signExtender_eq_ite, ← oneIf_decide]
  exact aluRegImm_writesReg .sltu rt rs imm s

/-- Settles O31: the result is the word AND with the extended immediate, bit by bit. -/
theorem andiResult : Obligations.AndiResult := by
  intro rt rs imm s
  obtain ⟨t, hexec, hwrites⟩ := aluRegImm_writesReg .and rt rs imm s
  refine ⟨t, _, hexec, hwrites, fun k hk => ?_⟩
  rw [← getLsbD_signExtender imm hk]
  exact BitVec.getLsbD_and

/-- Settles O32: the result is the word OR with the extended immediate, bit by bit. -/
theorem oriResult : Obligations.OriResult := by
  intro rt rs imm s
  obtain ⟨t, hexec, hwrites⟩ := aluRegImm_writesReg .or rt rs imm s
  refine ⟨t, _, hexec, hwrites, fun k hk => ?_⟩
  rw [← getLsbD_signExtender imm hk]
  exact BitVec.getLsbD_or

/-- Settles O33: the shift keeps the immediate's own sixteen bits alone. -/
theorem luiResult : Obligations.LuiResult := by
  intro rt imm s
  rw [← signExtender_shiftLeft_16]
  exact aluRegImm_writesReg .shl16 rt 0#5 imm s

end Sys2Proof.Machine

/-! ### Load and store (43_load_store.md)

Both check one address and then have one effect or halt: each branch is said once for each instruction, and the fetched
word only names the operands. -/

namespace Sys2Proof.Machine

/-- The address is the base as an unsigned number plus the signed displacement (R190). -/
theorem effectiveAddress_eq_ofInt (base : Word) (imm : Imm16) :
    effectiveAddress base imm = BitVec.ofInt 32 ((base.toNat : Int) + imm.toInt) := by
  rw [BitVec.ofInt_add, BitVec.ofInt_natCast, BitVec.ofNat_toNat, BitVec.setWidth_eq, ← toInt_signExtender,
    BitVec.ofInt_toInt]
  rfl

/-! ### The two branches of each instruction (R191, R192) -/

section Access
variable (rt : RegIdx) {rs : RegIdx} {imm : Imm16} {s : State}

theorem execLw_writesReg (h : addrOK (effectiveAddress (s.readReg rs) imm) = true) :
    ∃ t, execLw rt rs imm s = .next t ∧ WritesReg s t rt (s.load (effectiveAddress (s.readReg rs) imm)) :=
  ⟨_, if_pos h, writesReg_writeReg_advance s rt _⟩

theorem execSw_stores (h : addrOK (effectiveAddress (s.readReg rs) imm) = true) :
    execSw rt rs imm s = .next (s.store (effectiveAddress (s.readReg rs) imm) (s.readReg rt)).advance :=
  if_pos h

theorem execLw_bad_address (h : addrOK (effectiveAddress (s.readReg rs) imm) = false) :
    execLw rt rs imm s = .fault .dataAddr :=
  if_neg (ne_true_of_eq_false h)

theorem execSw_bad_address (h : addrOK (effectiveAddress (s.readReg rs) imm) = false) :
    execSw rt rs imm s = .fault .dataAddr :=
  if_neg (ne_true_of_eq_false h)

end Access

/-! ### The cycle of a load or store word (R190) -/

theorem stepWith_of_opLw {p : EncodingParams} (hp : p.opcodes.Nodup) {s : State} (hpc : addrOK s.pc = true)
    (hop : (partition s.fetched).op = p.opLw) :
    stepWith p s = execLw (partition s.fetched).rt (partition s.fetched).rs (partition s.fetched).imm s := by
  obtain ⟨-, -, -, -, -, -, -, decLw, -⟩ := decodeFields_rows hp (partition s.fetched)
  exact stepWith_of_decoded hpc (decLw hop)

theorem stepWith_of_opSw {p : EncodingParams} (hp : p.opcodes.Nodup) {s : State} (hpc : addrOK s.pc = true)
    (hop : (partition s.fetched).op = p.opSw) :
    stepWith p s = execSw (partition s.fetched).rt (partition s.fetched).rs (partition s.fetched).imm s := by
  obtain ⟨-, -, -, -, -, -, -, -, decSw, -⟩ := decodeFields_rows hp (partition s.fetched)
  exact stepWith_of_decoded hpc (decSw hop)

/-- Settles O42: a store writes no register, a load no register but its destination, and a halting cycle nothing. -/
theorem addressingMode : Obligations.AddressingMode := by
  refine ⟨effectiveAddress_eq_ofInt, ?_, by decide⟩
  rintro p hp s hpc _ rfl hop
  obtain ⟨hopcodes, -⟩ := p.wf_iff.1 hp
  refine ⟨fun h => ?_, fun h => ?_⟩
  · by_cases hsw : (partition s.fetched).op = p.opSw
    · rw [stepWith_of_opSw hopcodes hpc hsw]
      exact ⟨_, execSw_stores _ h, fun _ => rfl⟩
    · obtain ⟨t, hexec, -, hothers, -⟩ := execLw_writesReg (partition s.fetched).rt h
      rw [stepWith_of_opLw hopcodes hpc (hop.resolve_right hsw)]
      exact ⟨t, hexec, fun hbase => hothers _ (hbase.resolve_left hsw)⟩
  · have hfault : stepWith p s = .fault .dataAddr := by
      obtain hlw | hsw := hop
      · rw [stepWith_of_opLw hopcodes hpc hlw, execLw_bad_address _ h]
      · rw [stepWith_of_opSw hopcodes hpc hsw, execSw_bad_address _ h]
    exact ⟨hfault, cycleWith_of_stepWith_fault hp hfault⟩

/-! ### The two results (R191, R192) -/

/-- Settles O34: the check of R52 decides between one register write and Halt, whatever `rt` is. -/
theorem lwResult : Obligations.LwResult := by
  rintro rt rs imm s _ rfl
  rw [← addrOK_iff_mod, ← memRead_eq_word, Bool.not_eq_true]
  exact ⟨execLw_writesReg rt, execLw_bad_address rt⟩

theorem word_memWrite (m : Memory) (a v : Word) (k : Nat) :
    Memory.word (memWrite m a v) k = if k = a.toNat / 4 then v else Memory.word m k := by
  rw [memWrite, Memory.word_setWord, wordIndex_eq_div]
  exact if_congr eq_comm rfl rfl

/-- Settles O35: the check of R52 decides between one memory write and Halt. -/
theorem swResult : Obligations.SwResult := by
  rintro rt rs imm s _ rfl
  rw [← addrOK_iff_mod, Bool.not_eq_true]
  exact ⟨fun h => ⟨_, execSw_stores rt h, word_memWrite _ _ _, fun _ => rfl, rfl⟩, execSw_bad_address rt⟩

end Sys2Proof.Machine

/-! ### The control transfers (44_control_transfer.md)

Both change the pc alone, so what is left to say is which number the target is (R87, R88). -/

namespace Sys2Proof.Machine

/-- A pc update keeps every register and the memory. -/
theorem sameRegs_setPc (s : State) (target : Word) : SameRegs s (s.setPc target) := fun _ => rfl

theorem sameMemory_setPc (s : State) (target : Word) : SameMemory s (s.setPc target) := fun _ => rfl

theorem pcPlus4_eq_ofInt (pc : Word) : pcPlus4 pc = BitVec.ofInt 32 ((pc.toNat : Int) + 4) := by
  rw [BitVec.ofInt_add, BitVec.ofInt_natCast, BitVec.ofNat_toNat, BitVec.setWidth_eq]
  rfl

/-- The shift by 2 makes the extended immediate a signed number of words. -/
theorem signExtender_shiftLeft_2 (imm : Imm16) : signExtender imm <<< 2 = BitVec.ofInt 32 (4 * imm.toInt) := by
  rw [BitVec.ofInt_mul, ← toInt_signExtender, BitVec.ofInt_toInt, BitVec.shiftLeft_eq_mul_twoPow, BitVec.mul_comm]
  rfl

/-- R87 as signed arithmetic. -/
theorem branchTarget_signExtender_eq_ofInt (pc : Word) (imm : Imm16) :
    branchTarget pc (signExtender imm) = BitVec.ofInt 32 ((pc.toNat : Int) + 4 + 4 * imm.toInt) := by
  rw [branchTarget, pcPlus4_eq_ofInt, signExtender_shiftLeft_2, ← BitVec.ofInt_add]

/-- Settles O36: the zero flag of the difference picks between the branch target and `pc + 4`. -/
theorem beqResult : Obligations.BeqResult := by
  intro rs rt imm s
  obtain ⟨heq, hexec⟩ | ⟨hne, hexec⟩ := execBeq_cases rs rt imm s
  · refine ⟨_, hexec, ?_, sameRegs_setPc s _, sameMemory_setPc s _⟩
    rw [if_pos heq, State.setPc_pc, branchTarget_signExtender_eq_ofInt]
  · refine ⟨_, hexec, ?_, sameRegs_setPc s _, sameMemory_setPc s _⟩
    rw [if_neg hne, Int.add_zero, State.advance_pc, pcPlus4_eq_ofInt]

/-- Settles O37: the target is the jump target as a number, and the pc update touches nothing else. -/
theorem jResult : Obligations.JResult := fun jt s =>
  ⟨s.setPc (jumpTarget s.pc jt), rfl, toNat_jumpTarget s.pc jt, sameRegs_setPc s _, sameMemory_setPc s _⟩

end Sys2Proof.Machine

/-! ### Halt and the end of a run (60_exceptions.md)

Each cause of R211 has its condition, under which the step halts with that cause, and under none of which it completes. A
step has one answer, so the conditions decide both whether it halts and why. -/

namespace Sys2Proof.Machine

/-! ### The causes (R211, R212) -/

/-- The condition of each cause, on the fields of the word at the pc (R211). -/
def HaltCondition (p : EncodingParams) (s : State) : Fault → Prop
  | .fetchAddr => addrOK s.pc = false
  | .opcode    => addrOK s.pc = true ∧ (partition s.fetched).op ∉ p.opcodes
  | .funct     => addrOK s.pc = true ∧ (partition s.fetched).op = p.opRtype ∧ (partition s.fetched).funct ∉ p.functs
  | .dataAddr  => addrOK s.pc = true ∧ ((partition s.fetched).op = p.opLw ∨ (partition s.fetched).op = p.opSw) ∧
      addrOK (effectiveAddress (s.readReg (partition s.fetched).rs) (partition s.fetched).imm) = false

/-- The opcodes by what can stop their instructions once they are decoded: a function code, a data address, or nothing. -/
theorem EncodingParams.mem_opcodes_cases {p : EncodingParams} {op : Op6} (h : op ∈ p.opcodes) :
    op = p.opRtype ∨ (op = p.opLw ∨ op = p.opSw) ∨ op ∈ [p.opAddi, p.opSlti, p.opSltiu, p.opAndi, p.opOri, p.opLui] ∨
      op = p.opBeq ∨ op = p.opJ := by
  simp only [EncodingParams.opcodes, List.mem_cons, List.not_mem_nil, or_false] at h ⊢
  tauto

/-- What holds of every row of a table holds of the row with a given entry in column `f`. -/
theorem exists_row {α β : Type} {rows : List α} {P : α → Prop} (h : ∀ q ∈ rows, P q) (f : α → β) {entry : β}
    (hentry : entry ∈ rows.map f) : ∃ q, f q = entry ∧ P q := by
  obtain ⟨q, hq, hf⟩ := List.mem_map.1 hentry
  exact ⟨q, hf, h q hq⟩

section Step
variable {p : EncodingParams} (hp : p.wf = true) {s : State}
include hp

theorem stepWith_of_haltCondition {c : Fault} (h : HaltCondition p s c) : stepWith p s = .fault c := by
  cases c with
  | fetchAddr => exact stepWith_of_bad_pc p h
  | opcode =>
    obtain ⟨hpc, hop⟩ := h
    exact stepWith_of_unsupported_opcode hpc hop
  | funct =>
    obtain ⟨hpc, hop, hfn⟩ := h
    exact stepWith_of_unsupported_funct hpc hop hfn
  | dataAddr =>
    obtain ⟨hpc, hop, haddr⟩ := h
    obtain ⟨-, haccess, -⟩ := addressingMode
    obtain ⟨-, hhalt⟩ := haccess p hp s hpc _ rfl hop
    obtain ⟨hfault, -⟩ := hhalt haddr
    exact hfault

section Fetched
variable (hpc : addrOK s.pc = true)
include hpc

theorem stepWith_completes_rtype (hop : (partition s.fetched).op = p.opRtype)
    (hfn : (partition s.fetched).funct ∈ p.functs) : ∃ t, stepWith p s = .next t := by
  obtain ⟨-, hcycle⟩ := rTypeCycle p hp
  obtain ⟨-, hfetched⟩ := hcycle s
  obtain ⟨-, hrows⟩ := hfetched hpc _ rfl hop
  obtain ⟨q, hq, hrow⟩ := exists_row hrows Prod.fst hfn
  obtain ⟨t, ht, -⟩ := hrow hq.symm
  exact ⟨t, ht⟩

theorem stepWith_completes_aluImm
    (hop : (partition s.fetched).op ∈ [p.opAddi, p.opSlti, p.opSltiu, p.opAndi, p.opOri, p.opLui]) :
    ∃ t, stepWith p s = .next t := by
  obtain ⟨q, hq, -, hcycle⟩ := exists_row (iTypeCycle p hp) Prod.fst hop
  obtain ⟨-, hfetched⟩ := hcycle s
  obtain ⟨t, ht, -⟩ := hfetched hpc _ rfl hq.symm
  exact ⟨t, ht⟩

theorem stepWith_completes_transfer
    (hop : (partition s.fetched).op = p.opBeq ∨ (partition s.fetched).op = p.opJ) : ∃ t, stepWith p s = .next t := by
  obtain ⟨hopcodes, -⟩ := p.wf_iff.1 hp
  obtain ⟨-, -, -, -, -, -, -, -, -, decBeq, decJ⟩ := decodeFields_rows hopcodes (partition s.fetched)
  obtain hbeq | hj := hop
  · obtain ⟨t, ht, -⟩ := beqResult (partition s.fetched).rs (partition s.fetched).rt (partition s.fetched).imm s
    exact ⟨t, (stepWith_of_decoded hpc (decBeq hbeq)).trans ht⟩
  · exact ⟨_, stepWith_of_decoded hpc (decJ hj)⟩

end Fetched

/-- A step completes unless a cause of R211 applies: each opcode leaves the one check that its instructions can fail. -/
theorem haltCondition_or_completes (s : State) : (∃ c, HaltCondition p s c) ∨ ∃ t, stepWith p s = .next t := by
  cases hpc : addrOK s.pc with
  | false => exact .inl ⟨.fetchAddr, hpc⟩
  | true =>
    by_cases hop : (partition s.fetched).op ∈ p.opcodes
    · obtain hrtype | haccess | himm | htransfer := EncodingParams.mem_opcodes_cases hop
      · by_cases hfn : (partition s.fetched).funct ∈ p.functs
        · exact .inr (stepWith_completes_rtype hp hpc hrtype hfn)
        · exact .inl ⟨.funct, hpc, hrtype, hfn⟩
      · cases haddr : addrOK (effectiveAddress (s.readReg (partition s.fetched).rs) (partition s.fetched).imm) with
        | false => exact .inl ⟨.dataAddr, hpc, haccess, haddr⟩
        | true =>
          obtain ⟨-, hmode, -⟩ := addressingMode
          obtain ⟨hvalid, -⟩ := hmode p hp s hpc _ rfl haccess
          obtain ⟨t, ht, -⟩ := hvalid haddr
          exact .inr ⟨t, ht⟩
      · exact .inr (stepWith_completes_aluImm hp hpc himm)
      · exact .inr (stepWith_completes_transfer hp hpc htransfer)
    · exact .inl ⟨.opcode, hpc, hop⟩

/-- The two answers a step can give. -/
theorem stepWith_fault_or_next (s : State) :
    (∃ c, HaltCondition p s c ∧ stepWith p s = .fault c) ∨ ∃ t, stepWith p s = .next t :=
  (haltCondition_or_completes hp s).imp_left fun ⟨c, h⟩ => ⟨c, h, stepWith_of_haltCondition hp h⟩

theorem stepWith_fault_iff_haltCondition (s : State) (c : Fault) : stepWith p s = .fault c ↔ HaltCondition p s c := by
  refine ⟨fun h => ?_, stepWith_of_haltCondition hp⟩
  obtain ⟨c', hc', hs⟩ | ⟨t, hs⟩ := stepWith_fault_or_next hp s <;> rw [h] at hs <;> cases hs
  exact hc'

theorem stepWith_ne_refused (s : State) (r : Refusal) : stepWith p s ≠ .refused r := by
  intro h
  obtain ⟨c, -, hs⟩ | ⟨t, hs⟩ := stepWith_fault_or_next hp s <;> rw [h] at hs <;> cases hs

end Step

/-- Settles O43: a step halts under the conditions of R211 alone, and FETCH_ADDR's is alignment and the upper bound. -/
theorem haltCauses : Obligations.HaltCauses := by
  rintro p hp s _ rfl
  have hiff := stepWith_fault_iff_haltCondition hp s
  refine ⟨?_, hiff .opcode, hiff .funct, hiff .dataAddr, stepWith_ne_refused hp s⟩
  rw [stepWith_fetchAddr_iff, ← Bool.not_eq_true, addrOK_iff_mod]
  omega

/-! ### The halting cycle and its clock edge (R130, R131, R213) -/

theorem encoding_wf : Config.encoding.wf = true := by decide

theorem haltPin_iff (s : State) : haltPin s = true ↔ ∃ c, step s = .fault c := by
  simp only [step, stepWith_fault_iff encoding_wf]
  exact Option.isSome_iff_exists

theorem clockEdge_of_haltPin {s : State} (h : haltPin s = true) : clockEdge false s = s := by
  obtain ⟨c, hc⟩ := Option.isSome_iff_exists.1 h
  have hcycle : cycle s = ⟨s, some c⟩ := cycleWith_of_halt hc
  exact congrArg CycleOut.state hcycle

/-- An edge commits the state of a cycle that does not halt. -/
theorem step_of_not_haltPin {s : State} (h : haltPin s = false) : step s = .next (clockEdge false s) := by
  have hnone : (cycle s).halt = none := Option.isNone_iff_eq_none.1 (Option.isSome_eq_false_iff.1 h)
  calc step s
    _ = (cycle s).result := stepRefinesCycle Config.encoding encoding_wf s
    _ = .next (cycle s).state := by rw [CycleOut.result, hnone]

/-- Settles O44: a halting cycle is back where it began, and the edge commits what the cycle answers. -/
theorem haltingCycleChangesNothing : Obligations.HaltingCycleChangesNothing := by
  refine ⟨fun p s c h => ?_, fun s => clockEdge_of_haltPin, fun s t h => ?_, haltPin_iff⟩
  · rw [cycleWith_of_halt h]
  · rw [step_of_not_haltPin h, Host.Outcome.next.injEq]

/-! ### After a Halt (R216) -/

theorem clockEdges_of_haltPin {s : State} (h : haltPin s = true) (n : Nat) : clockEdges n s = s := by
  induction n with
  | zero => rfl
  | succ n ih => rw [clockEdges, clockEdge_of_haltPin h, ih]

/-- Settles O45: every further edge finds the state of the first Halt. -/
theorem haltPersists : Obligations.HaltPersists := by
  intro s n h
  rw [clockEdges_of_haltPin h n]
  exact ⟨rfl, h⟩

/-! ### The end of a run (R219) -/

theorem endsAt_zero {s t : State} {c : Fault} (h : EndsAt 0 s t c) : t = s ∧ step s = .fault c := by
  obtain ⟨hrun, hend⟩ := h
  cases hrun
  exact ⟨rfl, hend⟩

theorem endsAt_succ {n : Nat} {s t : State} {c : Fault} (h : EndsAt (n + 1) s t c) :
    ∃ s', step s = .next s' ∧ EndsAt n s' t c := by
  obtain ⟨hrun, hend⟩ := h
  obtain ⟨s', hs, hrest⟩ := completes_succ hrun
  exact ⟨s', hs, hrest, hend⟩

/-- Settles O46: two ends of a run agree on whether its first cycle halts, and if it does not, their rest is one run. -/
theorem runEndsOnce : Obligations.RunEndsOnce := by
  intro n
  induction n with
  | zero =>
    intro m s t u c d ht hu
    obtain ⟨rfl, hc⟩ := endsAt_zero ht
    cases m with
    | zero =>
      obtain ⟨rfl, hd⟩ := endsAt_zero hu
      cases hc.symm.trans hd
      exact ⟨rfl, rfl, rfl⟩
    | succ m =>
      obtain ⟨s', hs, -⟩ := endsAt_succ hu
      cases hc.symm.trans hs
  | succ n ih =>
    intro m s t u c d ht hu
    obtain ⟨s', hs, ht⟩ := endsAt_succ ht
    cases m with
    | zero =>
      obtain ⟨-, hd⟩ := endsAt_zero hu
      cases hs.symm.trans hd
    | succ m =>
      obtain ⟨s'', hs', hu⟩ := endsAt_succ hu
      cases hs.symm.trans hs'
      obtain ⟨rfl, hrest⟩ := ih m s' t u c d ht hu
      exact ⟨rfl, hrest⟩

end Sys2Proof.Machine

/-! ### A reset edge (70_reset_and_hazards.md R240) -/

namespace Sys2Proof.Machine

@[simp] theorem boot_pc (image : Memory) : (boot image).pc = resetPc := rfl

@[simp] theorem boot_mem (image : Memory) : (boot image).mem = image := rfl

/-- The registers a boot loads do not depend on the memory image. -/
@[simp] theorem boot_readReg (image : Memory) (r : RegIdx) : (boot image).readReg r = State.reset.readReg r := rfl

/-- With `rst` = 1 the edge runs no cycle: only the memory of `s` reaches the next state. -/
@[simp] theorem clockEdge_rst (s : State) : clockEdge true s = boot s.mem := rfl

/-- Settles O57: a reset edge boots from the memory that is there, so each field is the one a boot gives. -/
theorem resetEdgeKeepsMemory : Obligations.ResetEdgeKeepsMemory := by
  intro s
  have hmem : SameMemory s (boot s.mem) := fun k => by rw [boot_mem]
  rw [clockEdge_rst]
  exact ⟨boot_pc s.mem, boot_readReg s.mem, hmem, rfl⟩

end Sys2Proof.Machine
